-- ==== Sys2Proof/Word.lean ====
section
/-! DEFINITION. The words and numbers of the VO-8420 (00_scope.md, "Numbers and ranges", "Units of time and of audio"). -/

namespace Sys2Proof

/-- A byte of the archive link. -/
abbrev Byte := BitVec 8

/-- A 24-bit two's-complement sample. -/
abbrev Sample := BitVec 24

/-- A lane, 0 to 7. -/
abbrev LaneId := Fin 8

/-- A route, 0 to 15. -/
abbrev RouteId := Fin 16

/-- A rate code, 0 to 5. -/
abbrev Rate := Fin 6

/-- An item number; 0 names no item. -/
abbrev Item := BitVec 32

/-- A value of the lane frame counter (R84): 48 bits, wrapping. -/
abbrev FrameCount := BitVec 48

end Sys2Proof
end

