-- ==== Sys2Proof/Syntax.lean ====
section
/-! DEFINITION. The commands of the block: one constructor per row of spec/opcode_table.json, and the operands they carry. -/

namespace Sys2Proof

/-- One frame slot of a lane port (R80, R179): channel words A and B of 26 bits, each with sample bits 25..2, aux bit 1 and parity bit 0. -/
structure Slot where
  a : BitVec 26
  b : BitVec 26
  deriving DecidableEq, Repr

/-- The trailer of a LAST block as it stands on the link (R119, R175). -/
structure Trailer where
  length : BitVec 40
  programme : BitVec 48
  lost : BitVec 32
  concealed : BitVec 32
  digest : BitVec 32
  reason : Byte
  flags : Byte
  segments : Byte
  deriving DecidableEq, Repr

/-- The block record of a RECALL packet, in the fields of its header (R121, R175). -/
structure RecallPacket where
  item : Item
  lane : Byte
  seq : BitVec 32
  flags : Byte
  frames : BitVec 16
  channels : Byte
  rate : Byte
  gap : BitVec 32
  payload : List Byte
  trailer : Option Trailer
  deriving DecidableEq, Repr

/-- The two monitor ports (R148). -/
inductive MonitorId where
  | a
  | b
  deriving DecidableEq, Repr

/-- What makes a received packet malformed (R159). The fifth item of R159's list, the link leaving UP, comes with the rows that make the link leave UP. -/
inductive Malformation where
  | badCheck
  | unknownKind
  | badLength
  | idleWordInside
  | unrecognisedWordInside
  | startWordInside
  deriving DecidableEq, Repr

/-- The commands. The rows of the archive controller's commands carry no operand: each is the step in which the command unit
executes the command at the front of its queue, whose parameters COMMAND_PACKET put there (R161, R162; log 1). -/
inductive Instr where
  | probe
  | deviceReset
  | deviceResetEffect
  | linkStats
  | eventRead
  | eventMask
  | eventForce
  | laneSet
  | laneGet
  | laneStatus
  | laneReset
  | speedSet
  | inject
  | itemQueue
  | itemWithdraw
  | itemStart
  | itemEnd
  | itemAbandon
  | itemMark
  | itemRead
  | itemRelease
  | tableStatus
  | routeSet
  | routeClear
  | routeRead
  | monitorSelect
  | monitorStatus
  | powerOn
  | resetLineAssert
  | resetLineRelease
  /-- A frame slot arrives at the lane's port (R80). -/
  | arrivingFrame (lane : LaneId) (slot : Slot)
  /-- The arriving frame that brings the injection countdown to 0 (R86; log 5). -/
  | injectionCountdownEnd (lane : LaneId) (slot : Slot)
  /-- The arriving frame that completes a detector window (R101; log 5). -/
  | detectorWindowEnd (lane : LaneId) (slot : Slot)
  /-- A 250 ms window ends. `edges` is N and `span` is T of R82; `sinceLoss` is the time in whole milliseconds since the lane
  lost lock, read only at the relock of a lane in DROPOUT (R74; log 4). -/
  | rateWindowEnd (lane : LaneId) (edges span sinceLoss : Nat)
  | clockLoss (lane : LaneId)
  | dropoutExpiry (lane : LaneId)
  /-- The cue line goes low (`low = true`) or high (R90). -/
  | cueLineChange (lane : LaneId) (low : Bool)
  | cueDebounceEnd (lane : LaneId)
  | linkSignalAppear
  | linkSignalLost
  /-- A link word: bits 9..8 are its prefix and bits 7..0 its byte (R174). -/
  | linkWord (word : BitVec 10)
  /-- A COMMAND packet received whole: tag, command code and parameter bytes (R175). -/
  | commandPacket (tag : BitVec 16) (code : Byte) (params : List Byte)
  | recallPacket (packet : RecallPacket)
  | routeIdleTimeout (route : RouteId)
  /-- A GATE packet: bit 0 of its byte is 1 for GO (R175). -/
  | gatePacket (gate : Byte)
  | malformedPacket (cause : Malformation)
  | holdLimitReached
  | transmitStart
  | packetSent
  | monitorOutputFrame (port : MonitorId)
  | unknownCommandCode
  | holdMillisecond
  deriving DecidableEq, Repr

end Sys2Proof
end

