-- ==== Sys2Proof/Decode.lean ====
section
/-! DEFINITION. The command that a word spells by the opcode table's bits. The table gives no row any bits (98_reader.md: 0 rows with fixed bits), so no word spells a command (log 27). -/

namespace Sys2Proof

/-- The command that the word `w` of `nbits` bits spells: none, for the table has no row with bits. -/
def decodeTableWord (_nbits _w : Nat) : Option Instr := none

end Sys2Proof
end

