-- ==== Sys2Proof/Config.lean ====
section
/-! DEFINITION. The capacities the spec fixes for the part, and the one value it leaves open. -/

namespace Sys2Proof.Config

/-- Item records (R1). -/
def records : Nat := 96
/-- Buffers of the block memory (R113). -/
def buffers : Nat := 192
/-- Places of a lane queue (R8). -/
def queuePlaces : Nat := 16
/-- Places of the command queue (R161). -/
def commandPlaces : Nat := 4
/-- Frames a monitor FIFO holds (R151). -/
def fifoFrames : Nat := 8192
/-- Marks an item's list holds (R68). -/
def markPlaces : Nat := 32
/-- Speed segments an item holds (R54). -/
def segmentPlaces : Nat := 8
/-- The item length at which the item closes with CAP (R36, R66). -/
def lengthCap : Nat := 68719476735
/-- The largest value of a 32-bit count. -/
def count32 : Nat := 4294967295
/-- The largest value of a 16-bit count. -/
def count16 : Nat := 65535
/-- The largest value of a route's frames accepted (R131). -/
def count40 : Nat := 1099511627775

/-- FREE VALUE (log 9). The samples of the frame a monitor port in LIVE plays while its lane is LOCKED and no frame has been
delivered to it since it left another source for the lane: R148 and R150 state none. Applied to a counter of State, so that each such frame is a fresh value. -/
opaque liveSample : Nat → Sample

end Sys2Proof.Config
end

