-- ==== Sys2Proof/Machine/State.lean ====
section
/-! DEFINITION. The state of the VO-8420, unit by unit (00_scope.md, "Functional units"), as plain data, and its value after power-on.
Counts are natural numbers whose operations keep them in the width the spec gives; what the spec shifts, masks or wraps is a bit vector. -/

namespace Sys2Proof.Machine

/-! ### Fault and refusal -/

/-- Nothing stops the part: refusals are status codes and losses are counted (R118, R159, R162). So there is no fault. -/
inductive Fault where
  deriving DecidableEq, Repr

/-- Why a command has no meaning in the model. -/
inductive Refusal where
  /-- Raised by `exec` alone, for a row of the table that has no meaning yet. Safe: the model stops where the part goes on. -/
  | notModelled (mnemonic : String)
  deriving DecidableEq, Repr

/-! ### Items (chapters 1 to 4) -/

/-- One or two channels. -/
inductive Channels where
  | one
  | two
  deriving DecidableEq, Repr

/-- Start rules (R27). -/
inductive StartRule where
  | command
  | cue
  | signal
  | deck
  | immediate
  deriving DecidableEq, Repr

/-- The enabled end conditions of a record (R35). -/
structure EndConditions where
  cue : Bool
  silence : Bool
  length : Bool
  deck : Bool
  deriving DecidableEq, Repr

/-- Close reasons (R38). -/
inductive CloseReason where
  | command
  | cue
  | silence
  | length
  | deck
  | cap
  | lockLost
  | rateChange
  | abandoned
  | laneReset
  deriving DecidableEq, Repr

/-- A speed ratio p/q (R53). -/
structure Ratio where
  p : Nat
  q : Nat
  deriving DecidableEq, Repr

/-- A speed segment (R54). -/
structure Segment where
  start : Nat
  ratio : Ratio
  programme : Nat
  deriving DecidableEq, Repr

/-- Mark kinds (R67). -/
inductive MarkKind where
  | cue
  | operator
  | overload
  | conceal
  | silence
  | dropout
  | overrun
  deriving DecidableEq, Repr

/-- A mark (R67). `serial` is the number of marks stored before it: the reference by which R69's accounting state names a stored mark.
A CUE mark's extent is absent and kept as 0; channels are both clear on the kinds that carry none. -/
structure Mark where
  kind : MarkKind
  offset : Nat
  programme : Nat
  extent : Nat
  chA : Bool
  chB : Bool
  serial : Nat
  deriving DecidableEq, Repr

/-- The five flags of a record (R79). -/
structure ItemFlags where
  discontinuous : Bool
  concealed : Bool
  overrun : Bool
  marksTruncated : Bool
  abandoned : Bool
  deriving DecidableEq, Repr

/-- The queueing part of a record (R3). `record` is which of the 96 records it is, 0 to 95. -/
structure Queued where
  record : Nat
  item : Item
  startRule : StartRule
  ends : EndConditions
  target : Nat
  preroll : Nat
  label : List Byte
  deriving DecidableEq, Repr

/-- The recording part of a record (R4, R5). `crc` is the digest register, before the final exclusive-or (R122). -/
structure Recording where
  deck : BitVec 16
  rate : Rate
  channels : Channels
  start : FrameCount
  length : Nat
  programme : Nat
  segments : List Segment
  marks : List Mark
  droppedMarks : Nat
  peakA : Nat
  peakB : Nat
  concealed : Nat
  lost : Nat
  overloads : Nat
  blocks : Nat
  crc : BitVec 32
  flags : ItemFlags
  deriving DecidableEq, Repr

/-- A CLOSED record (R6). -/
structure ClosedRecord where
  queued : Queued
  lane : LaneId
  record : Recording
  reason : CloseReason
  deriving DecidableEq, Repr

/-- A reference to a stored mark, or the note that the mark was dropped (R69); a dropped mark's growth is followed in the note. -/
inductive MarkRef where
  | stored (serial : Nat)
  | dropped (mark : Mark)
  deriving DecidableEq, Repr

/-- A current CONCEAL or OVERLOAD mark with the offset `last` of its last concealed frame or clipped sample (R69). -/
structure CurrentMark where
  mark : MarkRef
  last : Nat
  deriving DecidableEq, Repr

/-- The accounting state of an open item (R69). -/
structure Accounting where
  conceal : Option CurrentMark
  overload : Option CurrentMark
  silence : Option MarkRef
  overrun : Option MarkRef
  deriving DecidableEq, Repr

/-- A lane's current buffer (R113, R115): its frames, their payload bytes, and the gap count its first frame recorded (R118). -/
structure Buffer where
  frames : Nat
  gap : Nat
  payload : List Byte
  deriving DecidableEq, Repr

/-- The running dropout timer (R41): its limit in milliseconds and the offset of the loss. -/
structure Dropout where
  limit : Nat
  offset : Nat
  deriving DecidableEq, Repr

/-- What a lane holds while its open slot is occupied: the OPEN record (R4, R5), its buffer state (R113, R114, R118), a pending
speed change (R62), the dropout timer (R41), whether its first live frame has been taken (R106), and its accounting state (R69). -/
structure OpenItem where
  queued : Queued
  record : Recording
  blockSize : Nat
  buffer : Option Buffer
  gap : Nat
  pendingSpeed : Option Ratio
  dropout : Option Dropout
  live : Bool
  accounts : Accounting
  deriving DecidableEq, Repr

/-! ### Lanes (chapters 2, 5 and 6) -/

/-- Source modes (R89). -/
inductive SourceMode where
  | auto
  | fixed
  deriving DecidableEq, Repr

/-- Cue modes (R28). -/
inductive CueMode where
  | off
  | startEnd
  | mark
  deriving DecidableEq, Repr

/-- Block sizes (R92). -/
inductive BlockSize where
  | b256
  | b512
  | b1024
  deriving DecidableEq, Repr

/-- A lane profile (R92). -/
structure Profile where
  enabled : Bool
  source : SourceMode
  rate : Rate
  channels : Channels
  deck : BitVec 16
  blockSize : BlockSize
  quota : Nat
  history : Nat
  tolerance : Nat
  low : Nat
  high : Nat
  ns : Nat
  ng : Nat
  clip : Nat
  runK : Nat
  cueMode : CueMode
  debounce : Nat
  grace : Nat
  quality : Nat
  ratio : Ratio
  deriving DecidableEq, Repr

/-- The default profile (R92). -/
def Profile.default : Profile where
  enabled := false
  source := .auto
  rate := 1
  channels := .two
  deck := 0
  blockSize := .b1024
  quota := 8
  history := 4096
  tolerance := 5
  low := 8389
  high := 16777
  ns := 300
  ng := 3
  clip := 8388607
  runK := 4
  cueMode := .off
  debounce := 20
  grace := 500
  quality := 10
  ratio := ⟨1, 1⟩

/-- Lock states (R81). -/
inductive LockState where
  | noClock
  | measuring
  | locked
  | mismatch
  deriving DecidableEq, Repr

/-- Deck motion (R88). -/
inductive Motion where
  | stop
  | play
  | spool
  | unknown
  deriving DecidableEq, Repr

/-- The declared values of the last good status word (R88). -/
structure Declared where
  deck : BitVec 16
  rate : Rate
  channels : Channels
  deriving DecidableEq, Repr

/-- The assembly of a status word (R87): waiting, or collecting with `count` bits in the low end of `word`. -/
inductive Assembly where
  | waiting
  | collecting (count : Nat) (word : BitVec 64) (spoiled : Bool)
  deriving DecidableEq, Repr

/-- A lane port (R81 to R89). `declared` is absent until a good word has been seen. -/
structure LanePort where
  lock : LockState
  measured : Nat
  windowConcealed : Nat
  windowLimit : Nat
  counter : FrameCount
  concealed : Nat
  rejected : Nat
  injection : Nat
  goodA : Sample
  goodB : Sample
  assembly : Assembly
  declared : Option Declared
  motion : Motion
  deriving DecidableEq, Repr

/-- A lane port after any reset (R97). `windowLimit` has no meaning before a window begins (log 25). -/
def LanePort.reset : LanePort where
  lock := .noClock
  measured := 0
  windowConcealed := 0
  windowLimit := Profile.default.quality
  counter := 0
  concealed := 0
  rejected := 0
  injection := 0
  goodA := 0
  goodB := 0
  assembly := .waiting
  declared := none
  motion := .unknown

/-- A cue unit (R90): the input level of its line, the debounced level, and the time in milliseconds of a running debounce. -/
structure CueUnit where
  low : Bool
  level : Bool
  running : Option Nat
  deriving DecidableEq, Repr

/-- Detector states (R101). -/
inductive DetectorState where
  | silence
  | signal
  deriving DecidableEq, Repr

/-- A detector window in progress (R100) with the settings in force when it began (R103). -/
structure Window where
  low : Nat
  high : Nat
  ns : Nat
  ng : Nat
  clip : Nat
  runK : Nat
  first : FrameCount
  frames : Nat
  peak : Nat
  deriving DecidableEq, Repr

/-- An overload run in progress in one channel (R105). -/
structure OverloadRun where
  count : Nat
  first : FrameCount
  found : Bool
  deriving DecidableEq, Repr

/-- A level detector (R100 to R106). -/
structure Detector where
  state : DetectorState
  runCount : Nat
  runStart : FrameCount
  window : Option Window
  runA : Option OverloadRun
  runB : Option OverloadRun
  deriving DecidableEq, Repr

/-- A level detector after any reset and after a lock acquisition (R104, R112). -/
def Detector.reset : Detector where
  state := .silence
  runCount := 0
  runStart := 0
  window := none
  runA := none
  runB := none

/-- A frame as the lane port delivers it (R84, R108). On a one-channel lane `b` is 0 and `concB` is clear. -/
structure Frame where
  counter : FrameCount
  a : Sample
  b : Sample
  concA : Bool
  concB : Bool
  deriving DecidableEq, Repr

/-- The baseline of an arming instant (R25). -/
structure Baseline where
  cue : Bool
  detector : DetectorState
  motion : Motion
  deriving DecidableEq, Repr

/-- One lane: its port, cue unit, detector, history ring with eligibility start, profile, queue, open slot and baseline. -/
structure Lane where
  profile : Profile
  port : LanePort
  cue : CueUnit
  detector : Detector
  ring : List Frame
  eligible : Option FrameCount
  queue : List Queued
  item : Option OpenItem
  baseline : Option Baseline
  deriving DecidableEq, Repr

/-- A lane after a reset, with its cue line at the level `low` and the debounce `running` (R21, R52, R90, R98, R112). -/
def Lane.afterReset (low : Bool) (running : Option Nat) : Lane where
  profile := Profile.default
  port := LanePort.reset
  cue := ⟨low, false, running⟩
  detector := Detector.reset
  ring := []
  eligible := none
  queue := []
  item := none
  baseline := none

/-! ### Item table and block memory (chapters 1 and 7) -/

/-- The free pool and the closed list (R1). The lane queues and open slots stand with their lanes. -/
structure ItemTable where
  pool : List Nat
  closed : List ClosedRecord
  deriving DecidableEq, Repr

/-- The table after a reset of the whole part (R21). -/
def ItemTable.reset : ItemTable where
  pool := List.range Config.records
  closed := []

/-- A block record (R121). `place` is the trailer place of a trailer-only entry, that of its record (R120); a block without one holds a buffer. -/
structure Block where
  item : Item
  lane : LaneId
  seq : Nat
  first : Bool
  last : Bool
  frames : Nat
  channels : Channels
  rate : Rate
  gap : Nat
  payload : List Byte
  trailer : Option Trailer
  place : Option Nat
  deriving DecidableEq, Repr

/-- The waiting-lane list (R116) and the send queue (R124), heads first. -/
structure BlockMemory where
  waiting : List LaneId
  queue : List Block
  deriving DecidableEq, Repr

/-! ### Events, commands and replies (chapter 10) -/

/-- Lane events (R165). -/
inductive LaneEvent where
  | lockChange
  | quality
  | itemOpened
  | itemClosed
  | overrun
  deriving DecidableEq, Repr

/-- Device events (R165). -/
inductive DeviceEvent where
  | linkStall
  | commandDropped
  | recallUnrouted
  deriving DecidableEq, Repr

/-- The flags of the three event sets (R165). -/
inductive Flag where
  | lane (lane : LaneId) (event : LaneEvent)
  | device (event : DeviceEvent)
  | routeDone (route : RouteId)
  deriving DecidableEq, Repr

/-- A notice waiting to be sent: of a flag, with the item number of its subject or 0, or the STATUS notice (R160, R165). -/
inductive Notice where
  | event (flag : Flag) (item : Item)
  | status
  deriving DecidableEq, Repr

/-- Reset causes (R160). -/
inductive ResetCause where
  | none
  | powerOn
  | resetLine
  | deviceReset
  deriving DecidableEq, Repr

/-- The event unit (R165). The sets are numbered as R176 numbers their bits. -/
structure EventUnit where
  lanes : Vector (BitVec 5) 8
  device : BitVec 3
  routes : BitVec 16
  mask : BitVec 9
  notices : List Notice
  cause : ResetCause
  deriving DecidableEq, Repr

/-- The event unit with every flag clear, every kind enabled and no notice (R172). -/
def EventUnit.reset (cause : ResetCause) : EventUnit where
  lanes := Vector.replicate 8 0
  device := 0
  routes := 0
  mask := BitVec.allOnes 9
  notices := []
  cause := cause

/-- Status codes (R164). -/
inductive Status where
  | ok
  | unknownCommand
  | badParam
  | badLane
  | laneOff
  | laneBusy
  | notLocked
  | tableFull
  | queueFull
  | duplicate
  | unknownItem
  | wrongState
  | segmentsFull
  | badRatio
  | routesFull
  | unknownRoute
  | sinkBusy
  deriving DecidableEq, Repr

/-- The summary (R163). -/
structure Summary where
  attention : Byte
  device : Bool
  routeDone : Bool
  closed : Nat
  free : Nat
  deriving DecidableEq, Repr

/-- A command in the queue (R161). -/
structure Command where
  tag : BitVec 16
  code : Byte
  params : List Byte
  deriving DecidableEq, Repr

/-- A reply (R163). -/
structure Reply where
  tag : BitVec 16
  code : Byte
  status : Status
  result : List Byte
  summary : Summary
  deriving DecidableEq, Repr

/-- The progress of a DEVICE_RESET (R171): none, its reply not yet sent, or due to take effect at once. -/
inductive ResetPhase where
  | idle
  | replyAwaited
  | due
  deriving DecidableEq, Repr

/-- The command unit. Its queue is `done` followed by `waiting` (R161): executed commands keep their places until their replies
have been sent, so they stand as their replies. -/
structure CommandUnit where
  done : List Reply
  waiting : List Command
  reset : ResetPhase
  deriving DecidableEq, Repr

/-! ### Link (chapters 7 and 10) -/

/-- Link states (R157). -/
inductive LinkState where
  | down
  | aligning
  | up
  deriving DecidableEq, Repr

/-- The link receiver (R157, R159). `packet` holds the data bytes of the packet being received. -/
structure Receiver where
  state : LinkState
  signal : Bool
  align : Nat
  run : Nat
  packet : Option (List Byte)
  deriving DecidableEq, Repr

/-- The send gate and the pace states: GO or HOLD (R125, R154). -/
inductive Gate where
  | go
  | hold
  deriving DecidableEq, Repr

/-- A hold (R126): its timer in milliseconds, and whether LINK_STALL has been set for it. -/
structure Hold where
  timer : Nat
  stalled : Bool
  deriving DecidableEq, Repr

/-- The link counters (R170). -/
structure LinkStats where
  commands : Nat
  recalls : Nat
  gates : Nat
  replies : Nat
  notices : Nat
  blocks : Nat
  paces : Nat
  malformed : Nat
  holdTotal : Nat
  deriving DecidableEq, Repr

/-- The link counters, all 0. -/
def LinkStats.zero : LinkStats := ⟨0, 0, 0, 0, 0, 0, 0, 0, 0⟩

/-- What a packet in flight is. A reply in flight is the oldest of the command unit's, which keeps it (R161, R128). -/
inductive Outbound where
  | pace
  | reply
  | notice (notice : Notice)
  | block (block : Block)
  deriving DecidableEq, Repr

/-- The packet in flight and its data bytes on the link, packet check included (R123, R174). -/
structure InFlight where
  packet : Outbound
  bytes : List Byte
  deriving DecidableEq, Repr

/-- The link transmitter (R125 to R128), with the pace sender's waiting PACE (R154). -/
structure Transmitter where
  gate : Gate
  hold : Option Hold
  beenUp : Bool
  holdLimit : Nat
  inFlight : Option InFlight
  paceReady : Bool
  stats : LinkStats
  deriving DecidableEq, Repr

/-- The transmitter after power-on (R129). The gate's value before the link first enters UP, and that no PACE waits, are the model's (log 25). -/
def Transmitter.reset : Transmitter where
  gate := .go
  hold := none
  beenUp := false
  holdLimit := 0
  inFlight := none
  paceReady := false
  stats := LinkStats.zero

/-! ### Recall and monitors (chapters 8 and 9) -/

/-- Sinks (R131). -/
inductive Sink where
  | monitorA
  | monitorB
  | verify
  deriving DecidableEq, Repr

/-- States of a route that is not FREE (R131). -/
inductive RouteState where
  | waiting
  | receiving
  | verified
  | mismatch
  | incomplete
  deriving DecidableEq, Repr

/-- Causes of an outcome (R131). -/
inductive Cause where
  | gap
  | check
  | format
  | overflow
  | count
  | digest
  | expected
  | timeout
  deriving DecidableEq, Repr

/-- The format of a recalled item (R131). -/
structure Format where
  rate : Rate
  channels : Channels
  deriving DecidableEq, Repr

/-- A route that is not FREE (R131). `crc` is the running digest register, before the final exclusive-or. -/
structure Route where
  item : Item
  sink : Sink
  expected : Option (BitVec 32)
  idleLimit : Nat
  state : RouteState
  next : Nat
  crc : BitVec 32
  frames : Nat
  blocks : Nat
  gaps : Nat
  badChecks : Nat
  discarded : Nat
  duplicates : Nat
  late : Nat
  format : Option Format
  trailer : Option Trailer
  cause : Option Cause
  deriving DecidableEq, Repr

/-- Sources of a monitor port (R149). -/
inductive Source where
  | none
  | lane (lane : LaneId)
  | routed
  deriving DecidableEq, Repr

/-- Monitor states (R148). -/
inductive MonitorState where
  | silent
  | live
  | filling
  | playing
  | starved
  deriving DecidableEq, Repr

/-- The route reference of a monitor port (R151): the route, its format, and the note that it has reached a final state. -/
structure RouteRef where
  route : RouteId
  format : Format
  final : Bool
  deriving DecidableEq, Repr

/-- Two samples, one for channel A or the left output and one for channel B or the right (R148). -/
structure Pair where
  a : Sample
  b : Sample
  deriving DecidableEq, Repr

/-- A monitor port (R148 to R154). `rate` is the rate last played, `live` the outputs of the frame last delivered by the selected lane, `out` the outputs of the frame last put out. -/
structure Monitor where
  source : Source
  state : MonitorState
  fifo : List Pair
  ref : Option RouteRef
  rate : Rate
  underruns : Nat
  pace : Gate
  live : Option Pair
  out : Pair
  deriving DecidableEq, Repr

/-- A monitor port after a reset (R156). -/
def Monitor.reset : Monitor where
  source := .none
  state := .silent
  fifo := []
  ref := none
  rate := 1
  underruns := 0
  pace := .go
  live := none
  out := ⟨0, 0⟩

/-! ### The part -/

/-- The state of the part. `resetLow` is the RESET input held low (R157); `freeDraws` counts the free values drawn (log 9);
`pending` is the model's queue of commands, first in first out. -/
structure State where
  lanes : Vector Lane 8
  table : ItemTable
  memory : BlockMemory
  tx : Transmitter
  rx : Receiver
  cmd : CommandUnit
  events : EventUnit
  routes : Vector (Option Route) 16
  monA : Monitor
  monB : Monitor
  resetLow : Bool
  freeDraws : Nat
  pending : List Instr
  deriving DecidableEq, Repr

/-- The part after power-on (R21, R52, R98, R112, R129, R147, R156, R172), its inputs at rest (log 8) and no command waiting. -/
def State.reset : State where
  lanes := Vector.replicate 8 (Lane.afterReset false none)
  table := ItemTable.reset
  memory := ⟨[], []⟩
  tx := Transmitter.reset
  rx := ⟨.down, false, 0, 0, none⟩
  cmd := ⟨[], [], .idle⟩
  events := EventUnit.reset .powerOn
  routes := Vector.replicate 16 none
  monA := Monitor.reset
  monB := Monitor.reset
  resetLow := false
  freeDraws := 0
  pending := []

end Sys2Proof.Machine
end

