-- ==== Sys2Proof/Machine/Bits.lean ====
section
/-! DEFINITION. Bit and byte helpers: byte order (R173), the two CRCs (R122, R123), parity (R80), magnitudes (R99), saturation. -/

namespace Sys2Proof.Machine

/-- `v` in `n` bytes, most significant first (R173). -/
def be : Nat → Nat → List Byte
  | 0, _ => []
  | n + 1, v => be n (v / 256) ++ [BitVec.ofNat 8 v]

/-- The unsigned number that bytes spell, most significant first (R173). -/
def beNat (bs : List Byte) : Nat := bs.foldl (fun n b => n * 256 + b.toNat) 0

/-- The number in the `width` bytes at position `pos` of `bs` (R173, R176). -/
def field (bs : List Byte) (pos width : Nat) : Nat := beNat ((bs.drop pos).take width)

/-- One data bit folded into a CRC register (R122, R123): shift towards the most significant end, and combine with the
polynomial when the bit shifted out differs from the data bit. -/
def crcBit {w : Nat} (poly reg : BitVec w) (bit : Bool) : BitVec w :=
  if reg.msb != bit then (reg <<< 1) ^^^ poly else reg <<< 1

/-- One byte, most significant bit first (R122, R123). -/
def crcByte {w : Nat} (poly reg : BitVec w) (b : Byte) : BitVec w :=
  [7, 6, 5, 4, 3, 2, 1, 0].foldl (fun r i => crcBit poly r (b.getLsbD i)) reg

/-- The digest register after further payload bytes (R122). -/
def crc32 (reg : BitVec 32) (bs : List Byte) : BitVec 32 := bs.foldl (crcByte 0x04C11DB7#32) reg

/-- The digest register at the opening instant (R122). -/
def crc32Start : BitVec 32 := BitVec.allOnes 32

/-- The digest that a register stands for: the final exclusive-or with 0xFFFFFFFF (R122). -/
def digestOf (reg : BitVec 32) : BitVec 32 := reg ^^^ BitVec.allOnes 32

/-- The packet check over a packet's bytes (R123). -/
def packetCheck (bs : List Byte) : BitVec 16 := bs.foldl (crcByte 0x1021#16) (BitVec.allOnes 16)

/-- A packet's data bytes with its check appended, most significant byte first (R174). -/
def withCheck (bs : List Byte) : List Byte := bs ++ be 2 (packetCheck bs).toNat

/-- Whether a channel word fails parity: its count of ones is odd (R80). -/
def failsParity (w : BitVec 26) : Bool := (List.range 26).foldl (fun odd i => odd != w.getLsbD i) false

/-- The sample bits, aux bit of a channel word (R179). -/
def wordSample (w : BitVec 26) : Sample := w.extractLsb' 2 24
def wordAux (w : BitVec 26) : Bool := w.getLsbD 1

/-- The magnitude of a sample, 0 to 8,388,608 (R99). -/
def magnitude (s : Sample) : Nat := s.toInt.natAbs

/-- `n` kept at `limit` when it would pass it (00_scope.md, "Counters"). -/
def sat (limit n : Nat) : Nat := min n limit

/-- `n` brought into `lo..hi` (R94). -/
def clamp (lo hi n : Nat) : Nat := max lo (min n hi)

/-- 1 when set and 0 when clear (R176). -/
def bit (b : Bool) : Byte := if b then 1 else 0

/-- A presence byte and the field, its full width of zeros when absent (R177). -/
def optional (width : Nat) : Option (List Byte) → List Byte
  | some bs => 1 :: bs
  | none => 0 :: List.replicate width 0

/-- The sample of three payload bytes, most significant first (R115, R173). -/
def sampleOf (x y z : Byte) : Sample := x ++ y ++ z

/-- The three payload bytes of a sample (R115). -/
def sampleBytes (s : Sample) : List Byte := [s.extractLsb' 16 8, s.extractLsb' 8 8, s.extractLsb' 0 8]

end Sys2Proof.Machine
end

