-- ==== Sys2Proof/Machine/Codes.lean ====
section
/-! DEFINITION. The code values of R176 and the numbers behind rate codes, block sizes and channel counts. -/

namespace Sys2Proof.Machine

/-- The sample rate of a rate code in Hz (00_scope.md, "Sample rates"). -/
def rateHz (r : Rate) : Nat :=
  match r.val with
  | 0 => 44100
  | 1 => 48000
  | 2 => 88200
  | 3 => 96000
  | 4 => 176400
  | _ => 192000

/-- The frames of a detector window, fs/100 (R100); also the merge distance W of R70. -/
def windowFrames (r : Rate) : Nat := rateHz r / 100

def rateByte (r : Rate) : Byte := BitVec.ofNat 8 r.val
def rateOfNat (n : Nat) : Option Rate := if h : n < 6 then some ⟨n, h⟩ else none
def laneOfNat (n : Nat) : Option LaneId := if h : n < 8 then some ⟨n, h⟩ else none
def routeOfNat (n : Nat) : Option RouteId := if h : n < 16 then some ⟨n, h⟩ else none

/-- Frames per block (R92). -/
def BlockSize.frames : BlockSize → Nat
  | .b256 => 256
  | .b512 => 512
  | .b1024 => 1024

def BlockSize.ofCode : Nat → Option BlockSize
  | 256 => some .b256
  | 512 => some .b512
  | 1024 => some .b1024
  | _ => none

def Channels.count : Channels → Nat
  | .one => 1
  | .two => 2

def Channels.ofCode : Nat → Option Channels
  | 1 => some .one
  | 2 => some .two
  | _ => none

def CloseReason.code : CloseReason → Nat
  | .command => 1
  | .cue => 2
  | .silence => 3
  | .length => 4
  | .deck => 5
  | .cap => 6
  | .lockLost => 7
  | .rateChange => 8
  | .abandoned => 9
  | .laneReset => 10

/-- The item flags byte. -/
def ItemFlags.code (f : ItemFlags) : Nat :=
  f.discontinuous.toNat + 2 * f.concealed.toNat + 4 * f.overrun.toNat + 8 * f.marksTruncated.toNat + 16 * f.abandoned.toNat

def StartRule.code : StartRule → Nat
  | .command => 0
  | .cue => 1
  | .signal => 2
  | .deck => 3
  | .immediate => 4

def StartRule.ofCode : Nat → Option StartRule
  | 0 => some .command
  | 1 => some .cue
  | 2 => some .signal
  | 3 => some .deck
  | 4 => some .immediate
  | _ => none

/-- The end conditions byte. -/
def EndConditions.code (e : EndConditions) : Nat :=
  e.cue.toNat + 2 * e.silence.toNat + 4 * e.length.toNat + 8 * e.deck.toNat

/-- The end conditions that a byte names; none when a bit names no condition. -/
def EndConditions.ofCode (n : Nat) : Option EndConditions :=
  if n < 16 then some ⟨n.testBit 0, n.testBit 1, n.testBit 2, n.testBit 3⟩ else none

def MarkKind.code : MarkKind → Nat
  | .cue => 1
  | .operator => 2
  | .overload => 3
  | .conceal => 4
  | .silence => 5
  | .dropout => 6
  | .overrun => 7

/-- The channels field of a mark: 0 absent, 1 A, 2 B, 3 both. -/
def Mark.channelsCode (m : Mark) : Nat := m.chA.toNat + 2 * m.chB.toNat

def Sink.code : Sink → Nat
  | .monitorA => 0
  | .monitorB => 1
  | .verify => 2

def Sink.ofCode : Nat → Option Sink
  | 0 => some .monitorA
  | 1 => some .monitorB
  | 2 => some .verify
  | _ => none

def RouteState.code : RouteState → Nat
  | .waiting => 1
  | .receiving => 2
  | .verified => 3
  | .mismatch => 4
  | .incomplete => 5

/-- The cause byte, 0 when absent. -/
def causeCode : Option Cause → Nat
  | none => 0
  | some .gap => 1
  | some .check => 2
  | some .format => 3
  | some .overflow => 4
  | some .count => 5
  | some .digest => 6
  | some .expected => 7
  | some .timeout => 8

def LockState.code : LockState → Nat
  | .noClock => 0
  | .measuring => 1
  | .locked => 2
  | .mismatch => 3

def Motion.code : Motion → Nat
  | .stop => 0
  | .play => 1
  | .spool => 2
  | .unknown => 3

def MonitorState.code : MonitorState → Nat
  | .silent => 0
  | .live => 1
  | .filling => 2
  | .playing => 3
  | .starved => 4

/-- A monitor source as MONITOR_SELECT carries it: the source byte and the lane byte (log 12). -/
def Source.bytes : Source → List Byte
  | .none => [0, 0]
  | .lane l => [1, BitVec.ofNat 8 l.val]
  | .routed => [2, 0]

def SourceMode.code : SourceMode → Nat
  | .auto => 0
  | .fixed => 1

def SourceMode.ofCode : Nat → Option SourceMode
  | 0 => some .auto
  | 1 => some .fixed
  | _ => none

def CueMode.code : CueMode → Nat
  | .off => 0
  | .startEnd => 1
  | .mark => 2

def CueMode.ofCode : Nat → Option CueMode
  | 0 => some .off
  | 1 => some .startEnd
  | 2 => some .mark
  | _ => none

def Gate.code : Gate → Nat
  | .go => 0
  | .hold => 1

def ResetCause.code : ResetCause → Nat
  | .none => 0
  | .powerOn => 1
  | .resetLine => 2
  | .deviceReset => 3

def Status.code : Status → Nat
  | .ok => 0x00
  | .unknownCommand => 0x01
  | .badParam => 0x02
  | .badLane => 0x03
  | .laneOff => 0x04
  | .laneBusy => 0x05
  | .notLocked => 0x06
  | .tableFull => 0x07
  | .queueFull => 0x08
  | .duplicate => 0x09
  | .unknownItem => 0x0A
  | .wrongState => 0x0B
  | .segmentsFull => 0x0C
  | .badRatio => 0x0D
  | .routesFull => 0x0E
  | .unknownRoute => 0x0F
  | .sinkBusy => 0x10

/-- The notice code of a flag (R175). -/
def Flag.noticeCode : Flag → Nat
  | .lane _ .lockChange => 0x01
  | .lane _ .quality => 0x02
  | .lane _ .itemOpened => 0x03
  | .lane _ .itemClosed => 0x04
  | .lane _ .overrun => 0x05
  | .device .linkStall => 0x10
  | .device .commandDropped => 0x11
  | .device .recallUnrouted => 0x12
  | .routeDone _ => 0x20

def monitorOfCode : Nat → Option MonitorId
  | 0 => some .a
  | 1 => some .b
  | _ => none

/-- The command codes (R176). -/
def commandCodes : List Byte :=
  [0x01, 0x02, 0x03, 0x10, 0x11, 0x12, 0x20, 0x21, 0x22, 0x23, 0x24, 0x25, 0x30, 0x31, 0x32, 0x33, 0x34, 0x35, 0x36, 0x37,
    0x38, 0x40, 0x41, 0x42, 0x50, 0x51]

end Sys2Proof.Machine
end

