-- ==== Sys2Proof/Machine/Flags.lean ====
section
/-! DEFINITION. The event flags: their places in the three sets (R165, R176), raising one, and the selections of EVENT_READ and EVENT_FORCE. -/

namespace Sys2Proof.Machine

/-- The bit of a lane event in its set (R176). -/
def LaneEvent.index : LaneEvent → Nat
  | .lockChange => 0
  | .quality => 1
  | .itemOpened => 2
  | .itemClosed => 3
  | .overrun => 4

/-- The bit of a device event in its set (R176). -/
def DeviceEvent.index : DeviceEvent → Nat
  | .linkStall => 0
  | .commandDropped => 1
  | .recallUnrouted => 2

/-- The bit of a flag's kind in the notice mask: 0..4 lane kinds, 5..7 device kinds, 8 route done (R176). -/
def Flag.maskIndex : Flag → Nat
  | .lane _ e => e.index
  | .device e => 5 + e.index
  | .routeDone _ => 8

/-- Whether a flag is set. -/
def EventUnit.isSet (ev : EventUnit) : Flag → Bool
  | .lane l e => (ev.lanes[l]).getLsbD e.index
  | .device e => ev.device.getLsbD e.index
  | .routeDone r => ev.routes.getLsbD r.val

/-- The event unit with one flag set, nothing else changed. -/
def EventUnit.mark (ev : EventUnit) : Flag → EventUnit
  | .lane l e => { ev with lanes := ev.lanes.set l (ev.lanes[l] ||| BitVec.twoPow 5 e.index) }
  | .device e => { ev with device := ev.device ||| BitVec.twoPow 3 e.index }
  | .routeDone r => { ev with routes := ev.routes ||| BitVec.twoPow 16 r.val }

/-- The event unit with one flag clear, nothing else changed. -/
def EventUnit.unmark (ev : EventUnit) : Flag → EventUnit
  | .lane l e => { ev with lanes := ev.lanes.set l (ev.lanes[l] &&& ~~~BitVec.twoPow 5 e.index) }
  | .device e => { ev with device := ev.device &&& ~~~BitVec.twoPow 3 e.index }
  | .routeDone r => { ev with routes := ev.routes &&& ~~~BitVec.twoPow 16 r.val }

/-- Whether a notice of this flag stands in the notice list. -/
def EventUnit.hasNotice (ev : EventUnit) (f : Flag) : Bool :=
  ev.notices.any fun n => match n with
    | .event g _ => g == f
    | .status => false

/-- Raising a flag (R165). A flag already set stays set and nothing more happens. A flag going from clear to set makes a notice
ready when the mask enables its kind, the link is UP, and no notice of the flag still waits. -/
def EventUnit.raise (ev : EventUnit) (linkUp : Bool) (f : Flag) (item : Item) : EventUnit :=
  if ev.isSet f then ev
  else if linkUp && ev.mask.getLsbD f.maskIndex && !ev.hasNotice f then
    { ev.mark f with notices := ev.notices ++ [.event f item] }
  else ev.mark f

/-- The link is UP. -/
def State.linkUp (s : State) : Bool := s.rx.state == .up

/-- A unit raises a flag through the event unit, with an item number as part of its subject or 0 (R165). -/
def State.raise (s : State) (f : Flag) (item : Item := 0) : State :=
  { s with events := s.events.raise s.linkUp f item }

/-- A selection of flags (R166, R168). -/
structure Selection where
  lanes : List (BitVec 5)
  device : BitVec 3
  routes : BitVec 16
  deriving DecidableEq, Repr

/-- The selection that 11 parameter bytes carry: 8 lane bytes, a device byte, a route word; none when a set bit names no kind (R176). -/
def Selection.ofParams (ps : List Byte) : Option Selection :=
  if (ps.take 8).all (fun b => b.toNat < 32) && field ps 8 1 < 8 then
    some ⟨(ps.take 8).map fun b => b.setWidth 5, BitVec.ofNat 3 (field ps 8 1), BitVec.ofNat 16 (field ps 9 2)⟩
  else none

/-- The flags that a lane's set names, in the order of their bits. -/
def laneFlags (l : LaneId) (sel : BitVec 5) : List Flag :=
  ([.lockChange, .quality, .itemOpened, .itemClosed, .overrun].filter fun e => sel.getLsbD e.index).map (.lane l)

/-- The flags a selection names, lanes 0 to 7 first, then device events, then routes, each set in the order of its bits. EVENT_FORCE makes their notices ready in this order (log 11). -/
def Selection.flags (sel : Selection) : List Flag :=
  (List.finRange 8).flatMap (fun l => laneFlags l (sel.lanes.getD l.val 0))
    ++ ([.linkStall, .commandDropped, .recallUnrouted].filter fun e => sel.device.getLsbD e.index).map .device
    ++ ((List.finRange 16).filter fun r => sel.routes.getLsbD r.val).map .routeDone

/-- All flags of the three sets as EVENT_READ's result carries them: 8 lane bytes, the device byte, the route word (R166, R176). -/
def EventUnit.bytes (ev : EventUnit) : List Byte :=
  ev.lanes.toList.map (fun b => b.setWidth 8) ++ [ev.device.setWidth 8] ++ be 2 ev.routes.toNat

end Sys2Proof.Machine
end

