-- ==== Sys2Proof/Machine/Ops.lean ====
section
/-! DEFINITION. The shared operations on lanes, on the item table and on the holdings of the block memory, and the values that are functions of the state (log 18). -/

namespace Sys2Proof.Machine

/-! ### Lanes -/

def State.lane (s : State) (l : LaneId) : Lane := s.lanes[l]

def State.setLane (s : State) (l : LaneId) (x : Lane) : State := { s with lanes := s.lanes.set l x }

def State.mapLane (s : State) (l : LaneId) (f : Lane → Lane) : State := s.setLane l (f (s.lane l))

/-- A change of the open item of a lane; nothing when the open slot is empty. -/
def State.mapItem (s : State) (l : LaneId) (f : OpenItem → OpenItem) : State :=
  s.mapLane l fun x => { x with item := x.item.map f }

/-- The values in use of a lane port (R89). -/
structure InUse where
  rate : Rate
  channels : Channels
  deck : BitVec 16
  deriving DecidableEq, Repr

/-- The values in use (R89): the declared ones in AUTO once a good word has been seen, the profile's otherwise. -/
def Lane.inUse (x : Lane) : InUse :=
  match x.profile.source, x.port.declared with
  | .auto, some d => ⟨d.rate, d.channels, d.deck⟩
  | _, _ => ⟨x.profile.rate, x.profile.channels, x.profile.deck⟩

/-- Transfer states (R23). -/
inductive TransferState where
  | off
  | idle
  | armed
  | recording
  | dropout
  deriving DecidableEq, Repr

/-- The transfer state that R23's table defines from the enable setting, the open slot, the dropout timer and the queue. -/
def Lane.transfer (x : Lane) : TransferState :=
  if !x.profile.enabled then .off
  else match x.item with
    | some o => if o.dropout.isSome then .dropout else .recording
    | none => if x.queue.isEmpty then .idle else .armed

/-- The transfer state byte (R176). -/
def TransferState.code : TransferState → Nat
  | .off => 0
  | .idle => 1
  | .armed => 2
  | .recording => 3
  | .dropout => 4

/-- A ratio within the bounds of R53. -/
def Ratio.valid (r : Ratio) : Bool :=
  1 ≤ r.p && r.p ≤ 65535 && 1 ≤ r.q && r.q ≤ 65535 && r.q ≤ 4 * r.p && r.p ≤ 4 * r.q

/-- Two ratios are equal when p₁ × q₂ = p₂ × q₁ (R53). -/
def Ratio.same (r t : Ratio) : Bool := r.p * t.q == t.p * r.q

/-- An arming instant of the lane (R25): the baseline of the three start sources is recorded, replacing any earlier one. -/
def Lane.arm (x : Lane) : Lane :=
  { x with baseline := some ⟨x.cue.level, x.detector.state, x.port.motion⟩ }

/-! ### The item table -/

/-- A non-FREE record, found by its item number (R2). -/
inductive Found where
  | queued (lane : LaneId) (position : Nat) (record : Queued)
  | opened (lane : LaneId) (item : OpenItem)
  | closed (record : ClosedRecord)
  deriving DecidableEq, Repr

/-- The record of a lane that carries the item number. -/
def Lane.find (x : Lane) (l : LaneId) (item : Item) : Option Found :=
  match x.item with
  | some o => if o.queued.item = item then some (.opened l o) else queueFind x
  | none => queueFind x
where
  /-- The lookup in the lane queue. -/
  queueFind (x : Lane) : Option Found :=
    match x.queue.findIdx? (fun q => q.item == item) with
    | some n => (x.queue[n]?).map (.queued l n)
    | none => none

/-- The lookup among the non-FREE records (R2). -/
def State.find (s : State) (item : Item) : Option Found :=
  match (List.finRange 8).findSome? fun l => (s.lane l).find l item with
  | some f => some f
  | none => (s.table.closed.find? fun c => c.queued.item == item).map .closed

/-- The free-record count (R20). -/
def State.freeRecords (s : State) : Nat := s.table.pool.length

/-- The closed-list count (R20). -/
def State.closedRecords (s : State) : Nat := s.table.closed.length

/-! ### Holdings of the block memory -/

/-- A block that holds a buffer of the lane: a trailer-only entry holds none (R120). -/
def Block.buffered (b : Block) (l : LaneId) : Bool := b.place.isNone && b.lane == l

/-- The blocks queued or in flight. -/
def State.blocksHeld (s : State) : List Block :=
  match s.tx.inFlight with
  | some ⟨.block b, _⟩ => b :: s.memory.queue
  | _ => s.memory.queue

/-- The lane has a current buffer. -/
def Lane.hasBuffer (x : Lane) : Bool :=
  match x.item with
  | some o => o.buffer.isSome
  | none => false

/-- The buffers a lane holds (R113): its current buffer, those of its entries queued, and that of its packet in flight. -/
def State.held (s : State) (l : LaneId) : Nat :=
  (s.lane l).hasBuffer.toNat + s.blocksHeld.countP fun b => b.buffered l

/-- Free buffers (R113): 192 less those the lanes hold. -/
def State.freeBuffers (s : State) : Nat :=
  Config.buffers - ((List.finRange 8).map s.held).sum

/-- The quota in force (R114). A stored quota lowered below the number held leaves the quota in force at the number held, and
it falls with each buffer given up until it reaches the stored quota: it is the larger of the two. -/
def State.quotaInForce (s : State) (l : LaneId) : Nat := max (s.lane l).profile.quota (s.held l)

/-- The trailer place of a record is held by a trailer-only entry queued or in flight (R120). -/
def State.placeHeld (s : State) (record : Nat) : Bool := s.blocksHeld.any fun b => b.place == some record

/-- The lane is below its quota in force and a buffer is free: the first row of R116's table, and the condition of a grant (R117). -/
def State.canGrant (s : State) (l : LaneId) : Bool :=
  decide (s.held l < s.quotaInForce l) && decide (0 < s.freeBuffers)

/-! ### The summary -/

/-- The summary as it stands (R163). -/
def State.summary (s : State) : Summary where
  attention := BitVec.ofNat 8 (((List.finRange 8).map fun l => if s.events.lanes[l] != 0 then 2 ^ l.val else 0).sum)
  device := s.events.device != 0
  routeDone := s.events.routes != 0
  closed := s.closedRecords
  free := s.freeRecords

/-- The four bytes of a summary (R175). -/
def Summary.bytes (m : Summary) : List Byte :=
  [m.attention, BitVec.ofNat 8 (m.device.toNat + 2 * m.routeDone.toNat), BitVec.ofNat 8 m.closed, BitVec.ofNat 8 m.free]

end Sys2Proof.Machine
end

