-- ==== Sys2Proof/Machine/Programme.lean ====
section
/-! DEFINITION. Programme time (chapter 3): the rounding of R55, speed segments, and a pending speed change taking effect. -/

namespace Sys2Proof.Machine

/-- R(d, k) of R55: d × 1,000,000 × p / (fs × q) microseconds, rounded to the nearest integer, a half rounded up. -/
def segmentTime (fs : Nat) (r : Ratio) (d : Nat) : Nat :=
  (2 * d * 1000000 * r.p + fs * r.q) / (2 * fs * r.q)

/-- The segment that contains offset `n` (R55): the last one that starts at `n` or before. -/
def segmentAt (segments : List Segment) (n : Nat) : Segment :=
  ((segments.filter fun g => g.start ≤ n).getLast?).getD ⟨0, ⟨1, 1⟩, 0⟩

/-- The programme time of an offset of the item (R55). -/
def Recording.prog (r : Recording) (n : Nat) : Nat :=
  let g := segmentAt r.segments n
  g.programme + segmentTime (rateHz r.rate) g.ratio (n - g.start)

/-- The programme length brought to prog(L) for the present length L (R58). -/
def Recording.reckon (r : Recording) : Recording := { r with programme := r.prog r.length }

/-- The ratio in force for the item, that of its last segment (R62). -/
def Recording.ratioInForce (r : Recording) : Ratio :=
  ((r.segments.getLast?).getD ⟨0, ⟨1, 1⟩, 0⟩).ratio

/-- A ratio taking effect at the frame about to take offset L (R63): a new segment starting at L with its programme start fixed
at prog(L) (R56), or, when the last segment starts at L and so holds no frame yet, that segment's ratio replaced. -/
def Recording.changeSpeed (r : Recording) (ratio : Ratio) : Recording :=
  match r.segments.getLast? with
  | some g =>
    if g.start = r.length then { r with segments := r.segments.dropLast ++ [{ g with ratio := ratio }] }
    else { r with segments := r.segments ++ [⟨r.length, ratio, r.prog r.length⟩] }
  | none => { r with segments := [⟨r.length, ratio, 0⟩] }

/-- Step 1 of R34: a pending speed change takes effect at this frame and is cleared (R63). -/
def OpenItem.takeSpeed (o : OpenItem) : OpenItem :=
  match o.pendingSpeed with
  | some ratio => { o with record := o.record.changeSpeed ratio, pendingSpeed := none }
  | none => o

end Sys2Proof.Machine
end

