-- ==== Sys2Proof/Machine/Marks.lean ====
section
/-! DEFINITION. Marks and item accounting (chapter 4): the sorted marks list, what each report of a frame or event makes of the open item's marks, counts, peaks and flags. -/

namespace Sys2Proof.Machine

/-- A mark of the given kind at an offset, its programme time fixed at prog(offset) (R59, R67). -/
def Recording.newMark (r : Recording) (kind : MarkKind) (offset extent : Nat) (chA chB : Bool) : Mark where
  kind := kind
  offset := offset
  programme := r.prog offset
  extent := extent
  chA := chA
  chB := chB
  serial := r.marks.length

/-- The insertion of R68: after every mark whose offset is less than or equal to its own, before every mark whose offset is greater. -/
def insertMark (m : Mark) : List Mark → List Mark
  | [] => [m]
  | x :: rest => if x.offset ≤ m.offset then x :: insertMark m rest else m :: x :: rest

/-- A mark raised in the item (R68): stored when fewer than 32 stand in the list, dropped and counted otherwise. -/
def OpenItem.raiseMark (o : OpenItem) (m : Mark) : OpenItem × MarkRef :=
  if o.record.marks.length < Config.markPlaces then
    ({ o with record := { o.record with marks := insertMark m o.record.marks } }, .stored m.serial)
  else
    ({ o with record := { o.record with
        droppedMarks := sat Config.count16 (o.record.droppedMarks + 1)
        flags := { o.record.flags with marksTruncated := true } } }, .dropped m)

/-- Growth of a mark still growing (R67, R69): in the list when it is stored, in the accounting state alone when it was dropped. -/
def OpenItem.growMark (o : OpenItem) (ref : MarkRef) (f : Mark → Mark) : OpenItem × MarkRef :=
  match ref with
  | .stored k => ({ o with record := { o.record with marks := o.record.marks.map fun m => if m.serial = k then f m else m } }, ref)
  | .dropped m => (o, .dropped (f m))

/-- A lost frame at offset `n` (R73): counted, flagged, and opening or extending the OVERRUN mark. -/
def OpenItem.loseFrame (o : OpenItem) (n : Nat) : OpenItem :=
  let o := { o with record := { o.record with
    lost := o.record.lost + 1
    flags := { o.record.flags with overrun := true } } }
  let (o, ref) := match o.accounts.overrun with
    | some ref => o.growMark ref fun m => { m with extent := m.extent + 1 }
    | none => o.raiseMark (o.record.newMark .overrun n 1 false false)
  { o with accounts := { o.accounts with overrun := some ref } }

/-- A frame placed in a buffer ends the open OVERRUN mark (R73). -/
def OpenItem.keepFrame (o : OpenItem) : OpenItem := { o with accounts := { o.accounts with overrun := none } }

/-- The concealed samples of the frame at offset `n` (R70). -/
def OpenItem.concealFrame (o : OpenItem) (n : Nat) (f : Frame) : OpenItem :=
  if f.concA || f.concB then
    let o := { o with record := { o.record with
      concealed := sat Config.count32 (o.record.concealed + 1)
      flags := { o.record.flags with concealed := true } } }
    let fresh := o.raiseMark (o.record.newMark .conceal n 1 f.concA f.concB)
    let (o, ref) := match o.accounts.conceal with
      | some c =>
        if n - c.last ≤ windowFrames o.record.rate then
          o.growMark c.mark fun m => { m with extent := n - m.offset + 1, chA := m.chA || f.concA, chB := m.chB || f.concB }
        else fresh
      | none => fresh
    { o with accounts := { o.accounts with conceal := some ⟨ref, n⟩ } }
  else o

/-- The peaks (R78, R107). Channel B of a one-channel item is not judged. -/
def OpenItem.peakFrame (o : OpenItem) (f : Frame) : OpenItem :=
  { o with record := { o.record with
    peakA := max o.record.peakA (magnitude f.a)
    peakB := match o.record.channels with
      | .one => o.record.peakB
      | .two => max o.record.peakB (magnitude f.b) } }

/-- What the level detector reports of one channel's overload run at a frame (R105). -/
inductive RunReport where
  | none
  | found (run : OverloadRun)
  | further
  deriving DecidableEq, Repr

/-- An overload run taken into the item at offset `n`, found there or handed over there (R71, R106). `counter` is the frame
counter value of that frame. The run's first offset is that of its first clipped sample, or 0 when that sample lies before the item. -/
def OpenItem.takeRun (o : OpenItem) (n : Nat) (counter : FrameCount) (run : OverloadRun) (inA : Bool) : OpenItem :=
  let back := (counter - run.first).toNat
  let first := n - back
  let samples := min (back + 1) (n + 1)
  let o := { o with record := { o.record with overloads := sat Config.count32 (o.record.overloads + 1) } }
  let fresh := o.raiseMark (o.record.newMark .overload first samples inA (!inA))
  let (o, ref) := match o.accounts.overload with
    | some c =>
      if first ≤ c.last + 10 * windowFrames o.record.rate then
        o.growMark c.mark fun m =>
          { m with extent := sat Config.count32 (m.extent + samples), chA := m.chA || inA, chB := m.chB || !inA }
      else fresh
    | none => fresh
  { o with accounts := { o.accounts with overload := some ⟨ref, n⟩ } }

/-- A further clipped sample of a run taken into the item (R71). -/
def OpenItem.extendRun (o : OpenItem) (n : Nat) : OpenItem :=
  match o.accounts.overload with
  | some c =>
    let (o, ref) := o.growMark c.mark fun m => { m with extent := sat Config.count32 (m.extent + 1) }
    { o with accounts := { o.accounts with overload := some ⟨ref, max c.last n⟩ } }
  | none => o

/-- The overload report of one channel at a live frame (R71, R106). At the item's first live frame any found run in progress is taken. -/
def OpenItem.overloadFrame (o : OpenItem) (n : Nat) (counter : FrameCount) (report : RunReport) (inProgress : Option OverloadRun)
    (inA : Bool) : OpenItem :=
  match o.live, inProgress, report with
  | false, some run, _ => if run.found then o.takeRun n counter run inA else o
  | true, _, .found run => o.takeRun n counter run inA
  | true, _, .further => o.extendRun n
  | _, _, _ => o

/-- A detector declaration (R102); SILENCE carries the silence start. -/
inductive Declaration where
  | signal
  | silence (start : FrameCount)
  deriving DecidableEq, Repr

/-- The open SILENCE mark brought to the present length (R72). -/
def OpenItem.growSilence (o : OpenItem) : OpenItem :=
  match o.accounts.silence with
  | some ref =>
    let (o, ref) := o.growMark ref fun m => { m with extent := o.record.length - m.offset }
    { o with accounts := { o.accounts with silence := some ref } }
  | none => o

/-- The declaration the frame completes, for an item without the SILENCE end condition (R72). `counter` is the frame's counter value and the item's length already counts the frame. -/
def OpenItem.declare (o : OpenItem) (counter : FrameCount) (d : Option Declaration) : OpenItem :=
  if o.queued.ends.silence then o
  else match d with
    | some (.silence start) =>
      let first := o.record.length - ((counter - start).toNat + 1)
      let (o, ref) := o.raiseMark (o.record.newMark .silence first (o.record.length - first) false false)
      { o with accounts := { o.accounts with silence := some ref } }
    | some .signal => { o with accounts := { o.accounts with silence := none } }
    | none => o

/-- A DROPOUT mark at the relock (R42, R74): at the offset of the loss, its extent the milliseconds without lock; DISCONTINUOUS is set and the timer stops. -/
def OpenItem.relock (o : OpenItem) (offset milliseconds : Nat) : OpenItem :=
  let (o, _) := o.raiseMark (o.record.newMark .dropout offset milliseconds false false)
  { o with
    record := { o.record with flags := { o.record.flags with discontinuous := true } }
    dropout := none }

/-- A CUE mark at the current length (R75). -/
def OpenItem.cueMark (o : OpenItem) : OpenItem :=
  (o.raiseMark (o.record.newMark .cue o.record.length 0 false false)).1

end Sys2Proof.Machine
end

