-- ==== Sys2Proof/Machine/Detector.lean ====
section
/-! DEFINITION. The level detector and the history ring (chapter 6). -/

namespace Sys2Proof.Machine

/-! ### Overload runs -/

/-- One channel's overload run after a taken sample of the given magnitude, and the report it brings (R105). -/
def stepRun (clip runK : Nat) (counter : FrameCount) (mag : Nat) (run : Option OverloadRun) : Option OverloadRun × RunReport :=
  if mag < clip then (none, .none)
  else
    let before := run.getD ⟨0, counter, false⟩
    let after := { before with count := before.count + 1 }
    if before.found then (some after, .further)
    else if runK ≤ after.count then (some { after with found := true }, .found { after with found := true })
    else (some after, .none)

/-! ### Windows -/

/-- The detector's window for a frame: the one in progress, or a new one that begins at this frame with the settings then in the profile (R100, R103). -/
def Detector.windowAt (d : Detector) (p : Profile) (counter : FrameCount) : Window :=
  d.window.getD ⟨p.low, p.high, p.ns, p.ng, p.clip, p.runK, counter, 0, 0⟩

/-- The judgement of a complete window (R101, R102): the state and run count after it, and the declaration made. -/
def Detector.judge (d : Detector) (w : Window) : Detector × Option Declaration :=
  let d := { d with window := none }
  let start := if d.runCount = 0 then w.first else d.runStart
  match d.state with
  | .silence =>
    if w.high ≤ w.peak then
      if w.ng ≤ d.runCount + 1 then ({ d with state := .signal, runCount := 0, runStart := 0 }, some .signal)
      else ({ d with runCount := d.runCount + 1, runStart := start }, none)
    else ({ d with runCount := 0, runStart := 0 }, none)
  | .signal =>
    if w.peak < w.low then
      if w.ns ≤ d.runCount + 1 then ({ d with state := .silence, runCount := 0, runStart := 0 }, some (.silence start))
      else ({ d with runCount := d.runCount + 1, runStart := start }, none)
    else ({ d with runCount := 0, runStart := 0 }, none)

/-- What the detector hands over with a frame (R102, R106): its declaration, each channel's report, and each channel's run after the frame. -/
structure DetectorReport where
  declared : Option Declaration
  reportA : RunReport
  reportB : RunReport
  runA : Option OverloadRun
  runB : Option OverloadRun
  deriving DecidableEq, Repr

/-- A taken frame at the detector (R99 to R105). On a one-channel lane channel B is not judged. -/
def Detector.frame (d : Detector) (p : Profile) (rate : Rate) (channels : Channels) (f : Frame) : Detector × DetectorReport :=
  let w := d.windowAt p f.counter
  let (runA, reportA) := stepRun w.clip w.runK f.counter (magnitude f.a) d.runA
  let (runB, reportB) := match channels with
    | .one => (none, RunReport.none)
    | .two => stepRun w.clip w.runK f.counter (magnitude f.b) d.runB
  let loudest := match channels with
    | .one => magnitude f.a
    | .two => max (magnitude f.a) (magnitude f.b)
  let w := { w with frames := w.frames + 1, peak := max w.peak loudest }
  let d := { d with window := some w, runA := runA, runB := runB }
  let (d, declared) := if windowFrames rate ≤ w.frames then d.judge w else (d, none)
  (d, ⟨declared, reportA, reportB, runA, runB⟩)

/-! ### The history ring -/

/-- The last `n` entries of a list. -/
def lastN {α : Type} (n : Nat) (xs : List α) : List α := xs.drop (xs.length - n)

/-- The eligibility start kept while the ring holds the frame it names. Once that frame is gone every frame held was taken after it,
which is what an absent start says (R109; log 19). -/
def keepStart (ring : List Frame) (start : Option FrameCount) : Option FrameCount :=
  start.filter fun v => ring.any fun f => f.counter == v

/-- The eligible frames of the ring, oldest first (R109). -/
def Lane.eligibleFrames (x : Lane) : List Frame :=
  match x.eligible with
  | none => x.ring
  | some v =>
    if x.ring.any fun f => f.counter == v then (x.ring.dropWhile fun f => f.counter != v).drop 1 else x.ring

/-- A taken frame enters the ring; the oldest is overwritten when the ring holds H frames (R108). -/
def Lane.enterRing (x : Lane) (f : Frame) : Lane :=
  let ring := lastN x.profile.history (x.ring ++ [f])
  { x with ring := ring, eligible := keepStart ring x.eligible }

/-- The ring after a change of the history length in the profile (R111). -/
def Lane.trimRing (x : Lane) : Lane :=
  let ring := lastN x.profile.history x.ring
  { x with ring := ring, eligible := keepStart ring x.eligible }

/-- The ring emptied, its eligibility start absent (R110). -/
def Lane.emptyRing (x : Lane) : Lane := { x with ring := [], eligible := none }

/-- The close of an item hands over the frame counter value of its last frame (R40). -/
def Lane.handOver (x : Lane) (last : FrameCount) : Lane := { x with eligible := keepStart x.ring (some last) }

end Sys2Proof.Machine
end

