-- ==== Sys2Proof/Machine/Blocks.lean ====
section
/-! DEFINITION. The block memory (chapter 7): requests and grants of buffers, filling one, lost frames, and the end of an item. -/

namespace Sys2Proof.Machine

/-- The payload bytes of a frame (R115). -/
def frameBytes (channels : Channels) (f : Frame) : List Byte :=
  match channels with
  | .one => sampleBytes f.a
  | .two => sampleBytes f.a ++ sampleBytes f.b

/-- A frame appended to the current buffer `b` (R115), folded into the digest (R122). The first frame of a buffer makes the block record the pending gap count, which returns to 0 (R118). -/
def OpenItem.append (o : OpenItem) (b : Buffer) (f : Frame) : OpenItem :=
  let bytes := frameBytes o.record.channels f
  { o with
    buffer := some ⟨b.frames + 1, if b.frames = 0 then o.gap else b.gap, b.payload ++ bytes⟩
    gap := if b.frames = 0 then 0 else o.gap
    record := { o.record with crc := crc32 o.record.crc bytes } }

/-- The block record of the item's next block (R121). -/
def OpenItem.block (o : OpenItem) (l : LaneId) (b : Buffer) (trailer : Option Trailer) (place : Option Nat) : Block where
  item := o.queued.item
  lane := l
  seq := o.record.blocks
  first := o.record.blocks == 0
  last := trailer.isSome
  frames := b.frames
  channels := o.record.channels
  rate := o.record.rate
  gap := b.gap
  payload := b.payload
  trailer := trailer
  place := place

/-- A finished block joins the tail of the send queue (R124). -/
def State.enqueue (s : State) (b : Block) : State :=
  { s with memory := { s.memory with queue := s.memory.queue ++ [b] } }

/-- The item's blocks emitted count grows by 1 and the lane has no current buffer (R115, R119). -/
def OpenItem.emitted (o : OpenItem) : OpenItem :=
  { o with buffer := none, record := { o.record with blocks := o.record.blocks + 1 } }

/-- A current buffer that holds block-size frames is finished at once (R115). -/
def State.finishFull (s : State) (l : LaneId) : State :=
  match (s.lane l).item with
  | some o =>
    match o.buffer with
    | some b => if o.blockSize ≤ b.frames then (s.enqueue (o.block l b none none)).mapItem l OpenItem.emitted else s
    | none => s
  | none => s

/-- An empty buffer becomes the lane's current buffer (R116, R117). -/
def State.giveBuffer (s : State) (l : LaneId) : State := s.mapItem l fun o => { o with buffer := some ⟨0, 0, []⟩ }

/-- The lane joins the tail of the waiting-lane list (R116). -/
def State.startWaiting (s : State) (l : LaneId) : State :=
  { s with memory := { s.memory with waiting := s.memory.waiting ++ [l] } }

/-- The lane leaves the waiting-lane list (R117, R119). -/
def State.stopWaiting (s : State) (l : LaneId) : State :=
  { s with memory := { s.memory with waiting := s.memory.waiting.filter fun k => k != l } }

/-- A request for a buffer, made by a lane without a current buffer (R116). A lane already waiting makes none. -/
def State.requestBuffer (s : State) (l : LaneId) : State :=
  if s.memory.waiting.contains l then s
  else if s.canGrant l then s.giveBuffer l
  else s.startWaiting l

/-- The grants that follow freed buffers (R117): the first waiting lane below its quota in force is granted one, again and again while a free buffer and such a lane remain. `fuel` bounds the grants: each takes a lane off the list. -/
def State.grantLoop : Nat → State → State
  | 0, s => s
  | fuel + 1, s =>
    match s.memory.waiting.find? fun l => s.canGrant l with
    | some l => grantLoop fuel ((s.stopWaiting l).giveBuffer l)
    | none => s

/-- The grants of R117, in full. -/
def State.grant (s : State) : State := State.grantLoop s.memory.waiting.length s

/-- Step 3 of R34: the frame goes to the current buffer, after a request when the lane has none (R115, R116), or is lost and adds
to the pending gap count (R118). True when the frame was placed. -/
def State.placeFrame (s : State) (l : LaneId) (f : Frame) : State × Bool :=
  let s := if (s.lane l).hasBuffer then s else s.requestBuffer l
  match (s.lane l).item with
  | some o =>
    match o.buffer with
    | some b => ((s.mapItem l fun o => o.append b f).finishFull l, true)
    | none => (s.mapItem l fun o => { o with gap := o.gap + 1 }, false)
  | none => (s, false)

/-- One frame of the open item, pre-roll or live: it takes its offset, goes to the buffer or is lost, and is accounted by steps 1 to 3
of R69 (R33, R34, R69). The first lost frame of a run sets OVERRUN for the lane (R118). -/
def State.passFrame (s : State) (l : LaneId) (f : Frame) : State :=
  match (s.lane l).item with
  | some o =>
    let n := o.record.length
    let s := s.mapItem l fun o => { o with record := { o.record with length := n + 1 } }
    let (s, placed) := s.placeFrame l f
    let s := if !placed && o.accounts.overrun.isNone then s.raise (.lane l .overrun) else s
    s.mapItem l fun o => ((if placed then o.keepFrame else o.loseFrame n).concealFrame n f).peakFrame f
  | none => s

/-- The trailer of an item that closes with a reason (R119). -/
def OpenItem.trailer (o : OpenItem) (reason : CloseReason) : Trailer where
  length := BitVec.ofNat 40 o.record.length
  programme := BitVec.ofNat 48 o.record.programme
  lost := BitVec.ofNat 32 o.record.lost
  concealed := BitVec.ofNat 32 o.record.concealed
  digest := digestOf o.record.crc
  reason := BitVec.ofNat 8 reason.code
  flags := BitVec.ofNat 8 o.record.flags.code
  segments := BitVec.ofNat 8 o.record.segments.length

/-- Step 2 of R39: the item's LAST entry (R119). A buffer with frames becomes the LAST block; otherwise a trailer-only entry is made in
the record's trailer place (R120), an empty buffer returns to free and is granted, and a waiting lane leaves the list. -/
def State.lastEntry (s : State) (l : LaneId) (o : OpenItem) (reason : CloseReason) : State :=
  let alone := o.block l ⟨0, o.gap, []⟩ (some (o.trailer reason)) (some o.queued.record)
  match o.buffer with
  | some b =>
    if b.frames = 0 then (((s.enqueue alone).mapItem l OpenItem.emitted).grant)
    else (s.enqueue (o.block l b (some (o.trailer reason)) none)).mapItem l OpenItem.emitted
  | none => ((s.enqueue alone).mapItem l OpenItem.emitted).stopWaiting l

end Sys2Proof.Machine
end

