-- ==== Sys2Proof/Machine/Engine.lean ====
section
/-! DEFINITION. The cutting engine (chapters 2 and 3): opening, the frames of an open item, closing, dropout, cue edges, frames and reports. -/

namespace Sys2Proof.Machine

/-! ### Closing -/

/-- Step 1 of R39: the ABANDONED flag when that is the reason, and a pending speed change cleared. The programme length is already that of the final length (R58). -/
def OpenItem.closing (o : OpenItem) (reason : CloseReason) : OpenItem :=
  { o with
    record := { o.record with flags := { o.record.flags with abandoned := o.record.flags.abandoned || reason == .abandoned } }
    pendingSpeed := none }

/-- The frame counter value of the item's last frame: start position plus length less 1, modulo 2^48 (R32, R40). -/
def OpenItem.lastFrame (o : OpenItem) : FrameCount := o.record.start + BitVec.ofNat 48 o.record.length - 1

/-- The record as it joins the closed list, its LAST entry counted (R39, R119). -/
def OpenItem.filed (o : OpenItem) (l : LaneId) (reason : CloseReason) : ClosedRecord := ⟨o.queued, l, o.emitted.record, reason⟩

/-- The open slot emptied, and the eligibility start handed to the ring (R39, R40). -/
def Lane.vacate (x : Lane) (last : FrameCount) : Lane := ({ x with item := none } : Lane).handOver last

/-- A record joins the tail of the closed list (R10). -/
def State.file (s : State) (c : ClosedRecord) : State := { s with table := { s.table with closed := s.table.closed ++ [c] } }

/-- Step 5 of R39: the head of a queue that is not empty is armed, but not at LANE_RESET. -/
def State.armNext (s : State) (l : LaneId) (reason : CloseReason) : State :=
  if (s.lane l).queue.isEmpty || reason == .laneReset then s else s.mapLane l Lane.arm

/-- The close of a lane's open item for a reason (R39), at the boundary after its last frame (R37). Nothing when the open slot is empty.
The steps of R39 stand in its order: final values, the LAST entry, the move to the closed list, ITEM_CLOSED, the arming of the next head. -/
def State.closeItem (s : State) (l : LaneId) (reason : CloseReason) : State :=
  match (s.lane l).item with
  | some o =>
    let o := o.closing reason
    let s := s.lastEntry l o reason
    let s := s.mapLane l fun x => x.vacate o.lastFrame
    let s := s.file (o.filed l reason)
    let s := s.raise (.lane l .itemClosed) o.queued.item
    s.armNext l reason
  | none => s

/-- The LENGTH end condition on the present length (R35, R65). -/
def OpenItem.reachedTarget (o : OpenItem) : Bool :=
  o.queued.ends.length && decide (o.queued.target ≤ o.record.programme)

/-! ### Opening -/

/-- The OPEN record as it begins (R4, R32): the captured values, one speed segment at the profile's ratio, everything else empty or
0. The length grows to P_eff as the pre-roll frames are pushed. -/
def OpenItem.begin (q : Queued) (use : InUse) (p : Profile) (start : FrameCount) : OpenItem where
  queued := q
  record := {
    deck := use.deck
    rate := use.rate
    channels := use.channels
    start := start
    length := 0
    programme := 0
    segments := [⟨0, p.ratio, 0⟩]
    marks := []
    droppedMarks := 0
    peakA := 0
    peakB := 0
    concealed := 0
    lost := 0
    overloads := 0
    blocks := 0
    crc := crc32Start
    flags := ⟨false, false, false, false, false⟩ }
  blockSize := p.blockSize.frames
  buffer := none
  gap := 0
  pendingSpeed := none
  dropout := none
  live := false
  accounts := ⟨none, none, none, none⟩

/-- The pre-roll of a head: the last P_eff of the eligible frames taken before the opening instant, oldest first (R31, R109). -/
def prerollOf (q : Queued) (candidates : List Frame) : List Frame := lastN q.preroll candidates

/-- The opening of the lane's head (R32): its record takes the open slot, the block memory is asked for its first buffer, the pre-roll
is pushed (R33), the programme length is reckoned (R58), ITEM_OPENED is set, and the LENGTH test is made on P_eff (R35).
`first` is the frame counter value of the first live frame, `candidates` the eligible frames taken before the opening instant. -/
def State.openHead (s : State) (l : LaneId) (first : FrameCount) (candidates : List Frame) (use : InUse) : State :=
  let x := s.lane l
  match x.queue with
  | q :: rest =>
    let preroll := prerollOf q candidates
    let o := OpenItem.begin q use x.profile (first - BitVec.ofNat 48 preroll.length)
    let s := s.setLane l { x with queue := rest, item := some o }
    let s := s.requestBuffer l
    let s := preroll.foldl (fun s f => s.passFrame l f) s
    let s := s.mapItem l fun o => { o with record := o.record.reckon }
    let s := s.raise (.lane l .itemOpened) q.item
    match (s.lane l).item with
    | some o => if o.reachedTarget then s.closeItem l .length else s
    | none => s
  | [] => s

/-- The opening at the boundary after the last frame taken (R30): the next frame is the first live frame. -/
def State.openNow (s : State) (l : LaneId) : State :=
  s.openHead l (s.lane l).port.counter (s.lane l).eligibleFrames (s.lane l).inUse

/-! ### Frames -/

/-- What reaches the cutting engine with a taken frame (R84, R88, R89, R102): the frame, the detector's report, the change of motion that a good word completed by
the frame makes, and whether that word changes the rate code or channels in use. -/
structure FrameReport where
  frame : Frame
  detector : DetectorReport
  motion : Option (Motion × Motion)
  rateChange : Bool
  deriving DecidableEq, Repr

/-- Step 4, the overload runs and declarations of R69, and step 5 of R34, for a live frame that has taken its offset. Where both channels
bring an overload run or a report at one frame, that of channel A is taken first and then that of channel B: the model's choice (log 29). -/
def OpenItem.finishFrame (o : OpenItem) (rep : FrameReport) : OpenItem :=
  let n := o.record.length - 1
  let o := o.overloadFrame n rep.frame.counter rep.detector.reportA rep.detector.runA true
  let o := o.overloadFrame n rep.frame.counter rep.detector.reportB rep.detector.runB false
  let o := (o.growSilence).declare rep.frame.counter rep.detector.declared
  { o with live := true, record := o.record.reckon }

/-- The change of motion is one that leaves PLAY (R35). -/
def leavesPlay : Option (Motion × Motion) → Bool
  | some (old, new) => old == .play && new != .play
  | none => false

/-- The change of motion is one to PLAY (R27). -/
def reachesPlay : Option (Motion × Motion) → Bool
  | some (_, new) => new == .play
  | none => false

/-- A declaration of SILENCE. -/
def Declaration.isSilence : Option Declaration → Bool
  | some (.silence _) => true
  | _ => false

/-- The one close reason of a frame that brings closes, the first of R36's list that holds (R35, R36, R73). -/
def OpenItem.frameClose (o : OpenItem) (rep : FrameReport) : Option CloseReason :=
  if rep.rateChange then some .rateChange
  else if Config.lengthCap ≤ o.record.length || Config.count32 ≤ o.record.lost then some .cap
  else if o.reachedTarget then some .length
  else if o.queued.ends.silence && Declaration.isSilence rep.detector.declared then some .silence
  else if o.queued.ends.deck && leavesPlay rep.motion then some .deck
  else none

/-- A frame of the open item, handled whole (R34). -/
def State.itemFrame (s : State) (l : LaneId) (rep : FrameReport) : State :=
  let s := s.mapItem l OpenItem.takeSpeed
  let s := s.passFrame l rep.frame
  let s := s.mapItem l fun o => o.finishFrame rep
  match (s.lane l).item with
  | some o =>
    match o.frameClose rep with
    | some reason => s.closeItem l reason
    | none => s
  | none => s

/-- The start event of a head that opens after the frame (R27, R30): a declaration of SIGNAL or a change to PLAY, the port still LOCKED (R26). -/
def State.startsAfter (s : State) (l : LaneId) (q : Queued) (rep : FrameReport) : Bool :=
  (s.lane l).port.lock == .locked &&
    ((q.startRule == .signal && rep.detector.declared == some .signal) || (q.startRule == .deck && reachesPlay rep.motion))

/-- A taken frame at the cutting engine of an enabled lane, the IMMEDIATE heads that open just before it having been opened. An open item
takes it (R34); a SIGNAL or DECK head opens just after it (R30). -/
def State.engineFrame (s : State) (l : LaneId) (rep : FrameReport) : State :=
  if !(s.lane l).profile.enabled then s
  else match (s.lane l).item, (s.lane l).queue with
    | some _, _ => s.itemFrame l rep
    | none, q :: _ => if s.startsAfter l q rep then s.openNow l else s
    | none, [] => s

/-! ### Loss of lock, relock, cue edges -/

/-- The loss of lock at the cutting engine (R41): a RECORDING lane closes its item with LOCK_LOST when the grace is 0, and enters DROPOUT otherwise. -/
def State.loseLock (s : State) (l : LaneId) : State :=
  match (s.lane l).item with
  | some o =>
    if o.dropout.isSome then s
    else if (s.lane l).profile.grace = 0 then s.closeItem l .lockLost
    else s.mapItem l fun o => { o with dropout := some ⟨(s.lane l).profile.grace, o.record.length⟩ }
  | none => s

/-- The end of the grace (R43). -/
def State.expireDropout (s : State) (l : LaneId) : State :=
  match (s.lane l).item with
  | some o => if o.dropout.isSome then s.closeItem l .lockLost else s
  | none => s

/-- The end of the grace at an event that comes `milliseconds` after the loss of lock, more than the limit of a timer still running: the
expiry came before the event (R43; log 4). At the limit itself the event came first. -/
def State.expireOverdue (s : State) (l : LaneId) (milliseconds : Nat) : State :=
  match (s.lane l).item.bind OpenItem.dropout with
  | some d => if d.limit < milliseconds then s.expireDropout l else s
  | none => s

/-- A lock acquisition at the cutting engine, `milliseconds` after the loss: the relock of a lane in DROPOUT (R42, R74). -/
def State.regainLock (s : State) (l : LaneId) (milliseconds : Nat) : State :=
  s.mapItem l fun o => match o.dropout with
    | some d => o.relock d.offset milliseconds
    | none => o

/-- An active cue edge at the cutting engine of an enabled lane, used as R28's table gives. -/
def State.cueEdge (s : State) (l : LaneId) : State :=
  let x := s.lane l
  match x.profile.cueMode, x.item, x.queue with
  | .off, _, _ => s
  | .startEnd, some o, _ => if o.queued.ends.cue then s.closeItem l .cue else s
  | .startEnd, none, q :: _ => if q.startRule = .cue && x.port.lock == .locked then s.openNow l else s
  | .startEnd, none, [] => s
  | .mark, some _, _ => s.mapItem l OpenItem.cueMark
  | .mark, none, _ => s

end Sys2Proof.Machine
end

