-- ==== Sys2Proof/Machine/Monitor.lean ====
section
/-! DEFINITION. The monitor ports and the pace sender (chapter 9). -/

namespace Sys2Proof.Machine

def State.monitor (s : State) : MonitorId → Monitor
  | .a => s.monA
  | .b => s.monB

/-- A monitor port after an event. A change of its pace state makes a PACE ready (R154). -/
def State.setMonitor (s : State) (id : MonitorId) (m : Monitor) : State :=
  let s := { s with tx := { s.tx with paceReady := s.tx.paceReady || m.pace != (s.monitor id).pace } }
  match id with
  | .a => { s with monA := m }
  | .b => { s with monB := m }

/-- The left and right outputs of a frame (R148). -/
def outputs (channels : Channels) (f : Pair) : Pair :=
  match channels with
  | .one => ⟨f.a, f.a⟩
  | .two => f

/-- The pace state once the FIFO has fallen (R154). -/
def Monitor.paceDown (m : Monitor) : Monitor :=
  if m.fifo.length ≤ 2048 then { m with pace := .go } else m

/-- The pace state after an append (R154). -/
def Monitor.paceUp (m : Monitor) : Monitor :=
  if 6144 ≤ m.fifo.length then { m with pace := .hold } else m

/-- A flush: every frame discarded, the route reference absent, the pace state brought up to date (R149, R153). -/
def Monitor.flush (m : Monitor) : Monitor := ({ m with fifo := [], ref := none } : Monitor).paceDown

/-- The selection of a source (R149). A lane selected again goes on from the frame it last delivered (R150); a source newly selected has
delivered none (log 9). -/
def Monitor.select (m : Monitor) (source : Source) : Monitor :=
  { m.flush with
    source := source
    state := match source with
      | .lane _ => .live
      | .none => .silent
      | .routed => .silent
    live := if m.source = source then m.live else none }

/-- A ROUTED port in FILLING or STARVED that holds 2048 frames or more goes to PLAYING (R152). -/
def Monitor.startPlaying (m : Monitor) : Monitor :=
  if (m.state == .filling || m.state == .starved) && decide (2048 ≤ m.fifo.length) then { m with state := .playing } else m

/-- Whether the FIFO has room for `n` frames of route `r` (R151). -/
def Monitor.hasRoom (m : Monitor) (r : RouteId) (n : Nat) : Bool :=
  n == 0 || match m.ref with
    | some ref => if ref.route = r then decide (m.fifo.length + n ≤ Config.fifoFrames) else decide (n ≤ Config.fifoFrames)
    | none => decide (m.fifo.length + n ≤ Config.fifoFrames)

/-- An append of one frame or more (R151, R152): from a route that is not that of the reference it first flushes and goes to FILLING. -/
def Monitor.append (m : Monitor) (r : RouteId) (format : Format) (frames : List Pair) : Monitor :=
  let same := match m.ref with
    | some ref => ref.route == r
    | none => false
  let m := if same then m else { m.flush with state := .filling, ref := some ⟨r, format, false⟩ }
  (({ m with fifo := m.fifo ++ frames } : Monitor).startPlaying).paceUp

/-- A route reported final to a ROUTED port (R144, R152). It changes nothing when it is not the route of the reference. -/
def Monitor.routeFinal (m : Monitor) (r : RouteId) : Monitor :=
  match m.source, m.ref with
  | .routed, some ref =>
    if ref.route = r then
      let m := { m with ref := some { ref with final := true } }
      match m.state with
      | .filling => { m with state := .playing }
      | .starved => if m.fifo.isEmpty then { m with state := .silent, ref := none } else { m with state := .playing }
      | _ => m
    else m
  | _, _ => m

/-- The flush ordered by ROUTE_CLEAR of route `r` (R153; log 16). It leaves a port whose reference does not name the route as it is. -/
def Monitor.clearRoute (m : Monitor) (r : RouteId) : Monitor :=
  match m.ref with
  | some ref =>
    if ref.route = r then
      { m.flush with state := if m.source = .routed then .silent else m.state }
    else m
  | none => m

/-- The output rate (R148): the lane's rate code in use in LIVE, the route's while the FIFO holds a route's frames, the rate last played in SILENT. -/
def State.outputRate (s : State) (m : Monitor) : Rate :=
  match m.state, m.source, m.ref with
  | .live, .lane l, _ => (s.lane l).inUse.rate
  | .filling, _, some ref => ref.format.rate
  | .playing, _, some ref => ref.format.rate
  | .starved, _, some ref => ref.format.rate
  | _, _, _ => m.rate

/-- A taken frame delivered to a port that plays the lane live (R84, R150). -/
def Monitor.deliver (m : Monitor) (l : LaneId) (channels : Channels) (f : Frame) : Monitor :=
  if m.source = .lane l then { m with live := some (outputs channels ⟨f.a, f.b⟩) } else m

/-- A taken frame delivered to both ports (R84). -/
def State.deliverLive (s : State) (l : LaneId) (channels : Channels) (f : Frame) : State :=
  { s with monA := s.monA.deliver l channels f, monB := s.monB.deliver l channels f }

/-- The state of a PLAYING port once its output frame has left the FIFO (R152). -/
def Monitor.afterPlayed (m : Monitor) : Monitor :=
  if m.fifo.isEmpty then
    match m.ref with
    | some ref => if ref.final then { m with state := .silent, ref := none } else { m with state := .starved }
    | none => { m with state := .starved }
  else m

/-- The FREE frame of a LIVE port to which no frame has been delivered since it left another source for the lane, on a LOCKED lane (log 9). -/
def freeLive (draws : Nat) (channels : Channels) : Pair :=
  outputs channels ⟨Config.liveSample (2 * draws), Config.liveSample (2 * draws + 1)⟩

/-- One output frame of a port (R148, R150, R152). -/
def State.outputFrame (s : State) (id : MonitorId) : State :=
  let m := { s.monitor id with rate := s.outputRate (s.monitor id) }
  let zero : Pair := ⟨0, 0⟩
  match m.state, m.source with
  | .live, .lane l =>
    if (s.lane l).port.lock = .locked then
      match m.live with
      | some f => s.setMonitor id { m with out := f }
      | none =>
        { s.setMonitor id { m with out := freeLive s.freeDraws (s.lane l).inUse.channels } with freeDraws := s.freeDraws + 1 }
    else s.setMonitor id { m with out := zero }
  | .playing, _ =>
    match m.fifo, m.ref with
    | f :: rest, some ref => s.setMonitor id (({ m with fifo := rest, out := outputs ref.format.channels f }).paceDown.afterPlayed)
    | _, _ => s.setMonitor id ({ m with out := zero }).afterPlayed
  | .starved, _ => s.setMonitor id { m with out := zero, underruns := sat Config.count32 (m.underruns + 1) }
  | _, _ => s.setMonitor id { m with out := zero }

end Sys2Proof.Machine
end

