-- ==== Sys2Proof/Machine/Port.lean ====
section
/-! DEFINITION. The lane port and the cue unit (chapter 5): the arriving frame, the status word, lock and rate, debounce. -/

namespace Sys2Proof.Machine

/-! ### The status word -/

/-- One arriving frame at the status word assembly (R87): the A aux bit, the marker (B aux bit) and whether the frame spoils the word.
The results are the assembly after it, the words rejected as abandoned or spoiled, and a word completed unspoiled. -/
def Assembly.feed (asm : Assembly) (aux marker spoils : Bool) : Assembly × Nat × Option (BitVec 64) :=
  let one : BitVec 64 := (BitVec.ofBool aux).setWidth 64
  match asm with
  | .waiting => (if marker then .collecting 1 one spoils else .waiting, 0, none)
  | .collecting count word spoiled =>
    if marker then (.collecting 1 one spoils, 1, none)
    else if count + 1 < 64 then (.collecting (count + 1) ((word <<< 1) ||| one) (spoiled || spoils), 0, none)
    else if spoiled || spoils then (.waiting, 1, none)
    else (.waiting, 0, some ((word <<< 1) ||| one))

/-- Byte `k` of a status word (R179). -/
def statusByte (w : BitVec 64) (k : Nat) : Byte := w.extractLsb' (56 - 8 * k) 8

/-- The declared values and motion of a completed word, when it is good: its check byte is the sum of the others modulo 256 and its rate code is 0..5 (R88, R179). -/
def goodWord (w : BitVec 64) : Option (Declared × Motion) :=
  let sum := ((List.range 7).map fun k => (statusByte w k).toNat).sum % 256
  let b := statusByte w 2
  match rateOfNat (b.toNat / 32) with
  | some rate =>
    if (statusByte w 7).toNat = sum then
      let motion := match b.toNat / 4 % 4 with
        | 0 => Motion.stop
        | 1 => Motion.play
        | 2 => Motion.spool
        | _ => Motion.unknown
      some (⟨statusByte w 0 ++ statusByte w 1, rate, if b.getLsbD 4 then .two else .one⟩, motion)
    else none
  | none => none

/-! ### Measurement -/

/-- A new window begins (R81, R85): the concealed count restarts at 0, judged against the threshold then in the profile. -/
def LanePort.beginWindow (p : LanePort) (profile : Profile) : LanePort :=
  { p with windowConcealed := 0, windowLimit := profile.quality }

/-- Measurement begins or restarts with a new first window (R81, R82). -/
def LanePort.measure (p : LanePort) (profile : Profile) : LanePort :=
  ({ p with lock := .measuring, measured := 0 } : LanePort).beginWindow profile

/-- A restart of measurement in a port that is not in NO_CLOCK (R82); a departure from LOCKED sets LOCK_CHANGE (R83). -/
def State.restartMeasurement (s : State) (l : LaneId) : State :=
  match (s.lane l).port.lock with
  | .noClock => s
  | .locked => (s.mapLane l fun x => { x with port := x.port.measure x.profile }).raise (.lane l .lockChange)
  | _ => s.mapLane l fun x => { x with port := x.port.measure x.profile }

/-- The tolerance test of R82 on N edges spanning T reference periods: |m − e| ≤ e × t / 1000 with m = (N − 1) × 24,576,000 / T, exactly. -/
def rateWithin (rate : Rate) (tolerance edges span : Nat) : Bool :=
  decide (((((edges - 1) * 24576000 : Nat) : Int) - ((rateHz rate * span : Nat) : Int)).natAbs * 1000 ≤ rateHz rate * tolerance * span)

/-- The measured rate in units of 1/16 Hz (R82): 16 × m rounded to the nearest integer, a half rounded up, saturating. -/
def measuredRate (edges span : Nat) : Nat :=
  sat Config.count32 ((2 * 16 * ((edges - 1) * 24576000) + span) / (2 * span))

/-- A lock acquisition (R83): LOCKED, the detector reset (R104), the ring emptied (R110), LOCK_CHANGE set, and the relock of a lane in DROPOUT (R42). -/
def State.acquireLock (s : State) (l : LaneId) (sinceLoss : Nat) : State :=
  let s := s.mapLane l fun x => ({ x with port := { x.port with lock := .locked }, detector := Detector.reset } : Lane).emptyRing
  (s.raise (.lane l .lockChange)).regainLock l sinceLoss

/-- The end of a measurement window (R81, R82), after the expiry of a dropout timer that the time since the loss has passed (R43; log 4).
A port in NO_CLOCK has no window, and a window with fewer than two edges would have lost its clock: then there is no such event and nothing
changes (log 2). -/
def State.endWindow (s : State) (l : LaneId) (edges span sinceLoss : Nat) : State :=
  let x := s.lane l
  if x.port.lock = .noClock || edges < 2 || span = 0 then s
  else
    let s := s.expireOverdue l sinceLoss
    let pass := rateWithin x.inUse.rate x.profile.tolerance edges span
    let s := s.mapLane l fun x => { x with port :=
      ({ x.port with measured := measuredRate edges span } : LanePort).beginWindow x.profile }
    match x.port.lock, pass with
    | .locked, true => s
    | .locked, false =>
      ((s.mapLane l fun x => { x with port := { x.port with lock := .mismatch } }).raise (.lane l .lockChange)).loseLock l
    | _, true => s.acquireLock l sinceLoss
    | _, false => s.mapLane l fun x => { x with port := { x.port with lock := .mismatch } }

/-- 1 ms without a frame clock edge (R81): NO_CLOCK, measured rate 0 (R82), motion UNKNOWN (R88), the partial word discarded uncounted (R87).
Nothing in a port already in NO_CLOCK (log 2). -/
def State.loseClock (s : State) (l : LaneId) : State :=
  let lost := s.mapLane l fun x => { x with port :=
    { x.port with lock := .noClock, measured := 0, windowConcealed := 0, assembly := .waiting, motion := .unknown } }
  match (s.lane l).port.lock with
  | .noClock => s
  | .locked => (lost.raise (.lane l .lockChange)).loseLock l
  | _ => lost

/-! ### The arriving frame -/

/-- What the port makes of an arriving slot before a frame is taken from it: the port after the edge, the injection and the status word,
whether it takes the frame, the parity results, the change of motion, and whether the values in use change. -/
structure Arrival where
  port : LanePort
  taken : Bool
  badA : Bool
  badB : Bool
  motion : Option (Motion × Motion)
  rateChange : Bool
  deriving DecidableEq, Repr

/-- An arriving slot at a lane port (R80, R81, R86, R87, R88, R89). An edge in NO_CLOCK moves the port to MEASURING, and the slot then feeds the assembly (log 17). -/
def Lane.arrive (x : Lane) (slot : Slot) : Arrival :=
  let p := if x.port.lock = .noClock then x.port.measure x.profile else x.port
  let taken := p.lock == .locked
  let badA := failsParity slot.a || (taken && p.injection == 1)
  let badB := failsParity slot.b
  let (assembly, rejects, word) := p.assembly.feed (wordAux slot.a) (wordAux slot.b) (badA || badB)
  let p := { p with assembly := assembly, injection := if taken then p.injection - 1 else p.injection }
  match word.map goodWord with
  | some (some (declared, motion)) =>
    { port := { p with declared := some declared, motion := motion }
      taken := taken
      badA := badA
      badB := badB
      motion := if motion = p.motion then none else some (p.motion, motion)
      rateChange := x.profile.source == .auto && (declared.rate != x.inUse.rate || declared.channels != x.inUse.channels) }
  | some none =>
    ⟨{ p with rejected := sat Config.count16 (p.rejected + rejects + 1) }, taken, badA, badB, none, false⟩
  | none =>
    ⟨{ p with rejected := sat Config.count16 (p.rejected + rejects) }, taken, badA, badB, none, false⟩

/-- The frame that a port takes from a slot (R84): concealed channels repeat the previous good sample. Channel B of a one-channel lane is ignored (R80). -/
def LanePort.frameOf (p : LanePort) (channels : Channels) (slot : Slot) (badA badB : Bool) : Frame :=
  match channels with
  | .one => ⟨p.counter, if badA then p.goodA else wordSample slot.a, 0, badA, false⟩
  | .two =>
    ⟨p.counter, if badA then p.goodA else wordSample slot.a, if badB then p.goodB else wordSample slot.b, badA, badB⟩

/-- The port once it has taken frame `f` (R84, R85): the counters, the previous good samples. -/
def LanePort.take (p : LanePort) (channels : Channels) (f : Frame) : LanePort :=
  let concealed := f.concA.toNat + f.concB.toNat
  { p with
    counter := p.counter + 1
    concealed := sat Config.count32 (p.concealed + concealed)
    windowConcealed := p.windowConcealed + concealed
    goodA := if f.concA then p.goodA else f.a
    goodB := match channels with
      | .one => p.goodB
      | .two => if f.concB then p.goodB else f.b }

/-- The frame of a slot that a LOCKED port takes, by the values in use when it arrives (R84; log 15). -/
def Lane.frameTaken (x : Lane) (slot : Slot) : Frame :=
  (x.arrive slot).port.frameOf x.inUse.channels slot (x.arrive slot).badA (x.arrive slot).badB

/-- The lane once its port has taken a slot: counters and good samples, detector, ring (R84, R100, R105, R108). -/
def Lane.afterTaking (x : Lane) (slot : Slot) : Lane :=
  ({ x with
    port := (x.arrive slot).port.take x.inUse.channels (x.frameTaken slot)
    detector := (x.detector.frame x.profile x.inUse.rate x.inUse.channels (x.frameTaken slot)).1 } : Lane).enterRing (x.frameTaken slot)

/-- The frame brings the window's concealed samples past the threshold (R85). -/
def Lane.passesQuality (x : Lane) (slot : Slot) : Bool :=
  decide ((x.arrive slot).port.windowConcealed ≤ (x.afterTaking slot).port.windowLimit) &&
    decide ((x.afterTaking slot).port.windowLimit < (x.afterTaking slot).port.windowConcealed)

/-- What the cutting engine receives with a taken slot (R84). -/
def Lane.reportOf (x : Lane) (slot : Slot) : FrameReport where
  frame := x.frameTaken slot
  detector := (x.detector.frame x.profile x.inUse.rate x.inUse.channels (x.frameTaken slot)).2
  motion := (x.arrive slot).motion
  rateChange := (x.arrive slot).rateChange

/-- The frames that a head may draw which opens just before the frame of a slot: the eligible ones of the ring as it stands with that
frame, the frame itself left out (R30, R108, R109). -/
def Lane.eligibleBefore (x : Lane) (slot : Slot) : List Frame := (x.afterTaking slot).eligibleFrames.dropLast

/-- The lane is ARMED with an IMMEDIATE head. -/
def Lane.opensBefore (x : Lane) : Bool :=
  x.profile.enabled && x.item.isNone && x.queue.head?.any fun q => q.startRule == .immediate

/-- The IMMEDIATE heads that open just before the frame of a slot that a LOCKED port takes (R27, R30), each at that boundary. A head that closes
there by LENGTH arms the next, which then opens there too when it is IMMEDIATE (R39; log 14). `fuel` bounds the openings: each takes a head off the queue. -/
def State.openBefore : Nat → State → LaneId → Slot → State
  | 0, s, _, _ => s
  | fuel + 1, s, l, slot =>
    let x := s.lane l
    if x.opensBefore then State.openBefore fuel (s.openHead l x.port.counter (x.eligibleBefore slot) x.inUse) l slot else s

/-- The port's part of taking a slot (R84): the lane counts, conceals, judges and keeps the frame, QUALITY is set when the frame passes the
threshold (R85), the monitors receive it, and a changed rate or channel count restarts measurement (R89). -/
def State.takeSlot (s : State) (l : LaneId) (slot : Slot) : State :=
  let x := s.lane l
  let s := s.setLane l (x.afterTaking slot)
  let s := if x.passesQuality slot then s.raise (.lane l .quality) else s
  let s := s.deliverLive l x.inUse.channels (x.frameTaken slot)
  if (x.arrive slot).rateChange then s.restartMeasurement l else s

/-- A frame slot arrives at the lane's port (R80). A LOCKED port takes the frame as one step (R84), and the cutting engine of an enabled
lane, whose IMMEDIATE head opens just before the frame, handles it with the reports it completes. A frame not taken feeds the status word alone, and a declared change then closes the
open item of a lane in DROPOUT (R45). -/
def State.slotArrives (s : State) (l : LaneId) (slot : Slot) : State :=
  let x := s.lane l
  let arr := x.arrive slot
  if arr.taken then ((State.openBefore x.queue.length s l slot).takeSlot l slot).engineFrame l (x.reportOf slot)
  else
    let s := s.setLane l { x with port := arr.port }
    if arr.rateChange then (s.restartMeasurement l).closeItem l .rateChange else s

/-! ### The cue unit -/

/-- The cue line at a level (R90): a debounce starts when it differs from the debounced level, and is cancelled when it returns to it. -/
def CueUnit.sample (c : CueUnit) (low : Bool) (debounce : Nat) : CueUnit :=
  { c with low := low, running := if low = c.level then none else some (c.running.getD debounce) }

/-- A debounce ends (R90, R91): the debounced level takes the line's level, and an active edge of an enabled lane is passed to its cutting
engine. Nothing when no debounce runs (log 2). -/
def State.endDebounce (s : State) (l : LaneId) : State :=
  let x := s.lane l
  if x.cue.running.isSome then
    let s := s.mapLane l fun x => { x with cue := { x.cue with level := x.cue.low, running := none } }
    if x.cue.low && !x.cue.level && x.profile.enabled then s.cueEdge l else s
  else s

end Sys2Proof.Machine
end

