-- ==== Sys2Proof/Machine/Recall.lean ====
section
/-! DEFINITION. The recall unit (chapter 8). -/

namespace Sys2Proof.Machine

def State.route (s : State) (r : RouteId) : Option Route := s.routes[r]

def State.setRoute (s : State) (r : RouteId) (t : Option Route) : State := { s with routes := s.routes.set r t }

/-- The route that an item number is routed to (R131). -/
def State.routeOf (s : State) (item : Item) : Option RouteId :=
  (List.finRange 16).find? fun r => match s.route r with
    | some t => t.item == item
    | none => false

/-- The monitor port that a sink names. -/
def Sink.port : Sink → Option MonitorId
  | .monitorA => some .a
  | .monitorB => some .b
  | .verify => none

/-- A final state (R132). -/
def RouteState.isFinal : RouteState → Bool
  | .waiting => false
  | .receiving => false
  | .verified => true
  | .mismatch => true
  | .incomplete => true

/-- A route that is WAITING or RECEIVING. -/
def Route.active (t : Route) : Bool := !t.state.isFinal

/-- A fault (R137): one more gap, and its cause when none stands. -/
def Route.fault (t : Route) (c : Cause) : Route :=
  { t with gaps := sat Config.count32 (t.gaps + 1), cause := some (t.cause.getD c) }

/-- FIRST and LAST of a packet's block flags; the other bits are ignored (R175). -/
def packetFirst (p : RecallPacket) : Bool := p.flags.getLsbD 0
def packetLast (p : RecallPacket) : Bool := p.flags.getLsbD 1

/-- The format that a packet declares, when its rate code and channels are in their ranges. -/
def packetFormat (p : RecallPacket) : Option Format :=
  match rateOfNat p.rate.toNat, Channels.ofCode p.channels.toNat with
  | some rate, some channels => some ⟨rate, channels⟩
  | _, _ => none

/-- The trailer's part of R138. -/
def trailerWellFormed (t : Trailer) : Bool :=
  1 ≤ t.reason.toNat && t.reason.toNat ≤ 10 && 1 ≤ t.segments.toNat && t.segments.toNat ≤ 8 && t.lost.toNat ≤ t.length.toNat

/-- The consistency of a packet's block record (R138). -/
def recordWellFormed (p : RecallPacket) : Bool :=
  (packetFormat p).isSome && p.seq.toNat ≤ 4294967294
    && ((1 ≤ p.frames.toNat && p.frames.toNat ≤ 1024) || (p.frames.toNat == 0 && packetLast p))
    && (!packetLast p || match p.trailer with
      | some t => trailerWellFormed t
      | none => false)

/-- What became of a packet at its route. -/
inductive Carried where
  | duplicate
  | discarded
  | accepted
  deriving DecidableEq, Repr

/-- The sequence and FIRST tests of a packet that is not a duplicate (R139). -/
def Route.sequence (t : Route) (p : RecallPacket) : Route :=
  let t := if t.next < p.seq.toNat then t.fault .gap else t
  let t := { t with next := p.seq.toNat + 1 }
  if packetFirst p == (p.seq == 0) then t else t.fault .gap

/-- The acceptance of a packet (R141): digest, counts, format, and RECEIVING unless it carries LAST. -/
def Route.accept (t : Route) (p : RecallPacket) (format : Format) : Route :=
  { t with
    crc := crc32 t.crc p.payload
    frames := sat Config.count40 (t.frames + p.frames.toNat)
    blocks := sat Config.count32 (t.blocks + 1)
    format := some (t.format.getD format)
    state := if packetLast p then t.state else .receiving }

/-- A packet discarded by R138, R140 or R141 with its cause. -/
def Route.discard (t : Route) (c : Cause) : Route :=
  ({ t with discarded := sat Config.count32 (t.discarded + 1) } : Route).fault c

/-- A packet carried through the tests of R138 to R141 at an active route; `room` says whether its frames fit where they go (R141).
A LAST packet that passes R138 and is no duplicate leaves its trailer in the route (R143). -/
def Route.carry (t : Route) (p : RecallPacket) (room : Bool) : Route × Carried :=
  match packetFormat p, recordWellFormed p with
  | some format, true =>
    if p.seq.toNat < t.next then ({ t with duplicates := sat Config.count32 (t.duplicates + 1) }, .duplicate)
    else
      let t := t.sequence p
      let t := if packetLast p then { t with trailer := p.trailer } else t
      if t.format.isSome && t.format != some format then (t.discard .format, .discarded)
      else if !room then (t.discard .overflow, .discarded)
      else (t.accept p format, .accepted)
  | _, _ =>
    (({ t with badChecks := sat Config.count32 (t.badChecks + 1) } : Route).discard .check, .discarded)

/-- The outcome of a route whose LAST packet has been taken (R143). -/
def Route.outcome (t : Route) : RouteState × Option Cause :=
  if 0 < t.gaps then (.incomplete, t.cause)
  else match t.trailer with
    | some tr =>
      if t.frames ≠ tr.length.toNat - tr.lost.toNat then (.incomplete, some .count)
      else if digestOf t.crc ≠ tr.digest then (.mismatch, some .digest)
      else if t.expected.isSome && t.expected != some (digestOf t.crc) then (.mismatch, some .expected)
      else (.verified, none)
    | none => (.incomplete, t.cause)

/-- The frames of a payload, channel A and then B, 3 bytes a sample (R115, R175). -/
def framesOne : List Byte → List Pair
  | x :: y :: z :: rest => ⟨sampleOf x y z, 0⟩ :: framesOne rest
  | _ => []
def framesTwo : List Byte → List Pair
  | x :: y :: z :: u :: v :: w :: rest => ⟨sampleOf x y z, sampleOf u v w⟩ :: framesTwo rest
  | _ => []
def payloadFrames (channels : Channels) (payload : List Byte) : List Pair :=
  match channels with
  | .one => framesOne payload
  | .two => framesTwo payload

/-- The ROUTED monitor port that takes a route's frames, if there is one (R141). -/
def State.playingPort (s : State) (t : Route) : Option MonitorId :=
  t.sink.port.filter fun id => (s.monitor id).source == .routed

/-- Whether a packet's frames fit where they go; a route played nowhere asks for no room (R141). -/
def State.roomFor (s : State) (r : RouteId) (t : Route) (n : Nat) : Bool :=
  match s.playingPort t with
  | some id => (s.monitor id).hasRoom r n
  | none => true

/-- The frames of an accepted packet appended to the monitor that plays the route (R141, R151); a packet of 0 frames appends nothing. -/
def State.appendFrames (s : State) (r : RouteId) (t : Route) (p : RecallPacket) : State :=
  match s.playingPort t, t.format with
  | some id, some format =>
    if p.frames.toNat = 0 then s
    else s.setMonitor id ((s.monitor id).append r format (payloadFrames format.channels p.payload))
  | _, _ => s

/-- A route reaches a final state (R144): its state and cause, its route-done flag, and word to the ROUTED monitor of its sink. -/
def State.finishRoute (s : State) (r : RouteId) (t : Route) (state : RouteState) (cause : Option Cause) : State :=
  let s := s.setRoute r (some { t with state := state, cause := cause })
  let s := s.raise (.routeDone r)
  match s.playingPort t with
  | some id => s.setMonitor id ((s.monitor id).routeFinal r)
  | none => s

/-- A well-formed RECALL packet at the recall unit (R136 to R143). -/
def State.recall (s : State) (p : RecallPacket) : State :=
  match s.routeOf p.item with
  | none => s.raise (.device .recallUnrouted) p.item
  | some r =>
    match s.route r with
    | none => s
    | some t =>
      if t.active then
        let (t', carried) := t.carry p (s.roomFor r t p.frames.toNat)
        let s := s.setRoute r (some t')
        let s := if carried = .accepted then s.appendFrames r t' p else s
        if packetLast p && carried != .duplicate then s.finishRoute r t' t'.outcome.1 t'.outcome.2 else s
      else s.setRoute r (some { t with late := sat Config.count32 (t.late + 1) })

/-- The idle limit of a route passes (R145): only a RECEIVING route with a limit above 0 runs a timer. -/
def State.idleOut (s : State) (r : RouteId) : State :=
  match s.route r with
  | some t => if t.state = .receiving && 0 < t.idleLimit then s.finishRoute r t .incomplete (some .timeout) else s
  | none => s

end Sys2Proof.Machine
end

