-- ==== Sys2Proof/Machine/Packets.lean ====
section
/-! DEFINITION. The bytes of packets (chapter 11): what the transmitter sends, and how the receiver reads a RECALL's bytes. -/

namespace Sys2Proof.Machine

/-- The 26 bytes of a trailer (R175). -/
def trailerBytes (t : Trailer) : List Byte :=
  be 5 t.length.toNat ++ be 6 t.programme.toNat ++ be 4 t.lost.toNat ++ be 4 t.concealed.toNat ++ be 4 t.digest.toNat
    ++ [t.reason, t.flags, t.segments]

/-- The body of a BLOCK packet (R175). -/
def Block.bytes (b : Block) : List Byte :=
  be 4 b.item.toNat ++ be 1 b.lane.val ++ be 4 b.seq ++ be 1 (b.first.toNat + 2 * b.last.toNat) ++ be 2 b.frames
    ++ be 1 b.channels.count ++ [rateByte b.rate] ++ be 4 b.gap ++ b.payload ++ (b.trailer.map trailerBytes).getD []

/-- The PROBE result and the identity of the STATUS notice (R177). -/
def identity : List Byte :=
  be 2 0x5741 ++ be 2 0x8420 ++ be 1 1 ++ be 4 0x5A0F3C96 ++ [8, 96, 192, 16, 2]

/-- The lane byte of a notice: the subject's lane, or 0xFF (R175). -/
def Flag.laneByte : Flag → Byte
  | .lane l _ => BitVec.ofNat 8 l.val
  | _ => 0xFF

/-- The route byte of a notice: the subject's route, or 0xFF (R175). -/
def Flag.routeByte : Flag → Byte
  | .routeDone r => BitVec.ofNat 8 r.val
  | _ => 0xFF

/-- The body of a NOTICE; the STATUS form carries the reset cause, the identity and the summary as they stand (R160, R175). -/
def Notice.bytes (n : Notice) (cause : ResetCause) (summary : Summary) : List Byte :=
  match n with
  | .event f item => be 1 f.noticeCode ++ [f.laneByte, f.routeByte] ++ be 4 item.toNat
  | .status => be 1 0 ++ be 1 cause.code ++ identity ++ summary.bytes

/-- The body of a REPLY (R175). A refused command carries no result (R163). -/
def Reply.bytes (r : Reply) : List Byte :=
  be 2 r.tag.toNat ++ [r.code] ++ be 1 r.status.code ++ r.summary.bytes ++ be 2 r.result.length ++ r.result

/-- The pace byte (R175). -/
def paceByte (a b : Gate) : Byte := BitVec.ofNat 8 (a.code + 2 * b.code)

/-- The data bytes of a packet the transmitter begins in this state, check included (R123, R174). -/
def State.packetBytes (s : State) (p : Outbound) : List Byte :=
  withCheck (match p with
    | .pace => [0x07, paceByte s.monA.pace s.monB.pace]
    | .reply => 0x02 :: ((s.cmd.done.head?).map Reply.bytes).getD []
    | .notice n => 0x03 :: n.bytes s.events.cause s.summary
    | .block b => 0x04 :: b.bytes)

/-- The trailer that 26 bytes carry (R175). -/
def trailerOf (bs : List Byte) : Trailer where
  length := BitVec.ofNat 40 (field bs 0 5)
  programme := BitVec.ofNat 48 (field bs 5 6)
  lost := BitVec.ofNat 32 (field bs 11 4)
  concealed := BitVec.ofNat 32 (field bs 15 4)
  digest := BitVec.ofNat 32 (field bs 19 4)
  reason := BitVec.ofNat 8 (field bs 23 1)
  flags := BitVec.ofNat 8 (field bs 24 1)
  segments := BitVec.ofNat 8 (field bs 25 1)

/-- The block record in the body of a RECALL packet, or none when the body is too short for its header or its length differs from the length the header gives (R159, R175). -/
def recallOf (body : List Byte) : Option RecallPacket :=
  let frames := field body 10 2
  let channels := field body 12 1
  let flags : Byte := BitVec.ofNat 8 (field body 9 1)
  let audio := frames * channels * 3
  if 18 ≤ body.length && body.length == 18 + audio + (if flags.getLsbD 1 then 26 else 0) then
    some {
      item := BitVec.ofNat 32 (field body 0 4)
      lane := BitVec.ofNat 8 (field body 4 1)
      seq := BitVec.ofNat 32 (field body 5 4)
      flags := flags
      frames := BitVec.ofNat 16 frames
      channels := BitVec.ofNat 8 channels
      rate := BitVec.ofNat 8 (field body 13 1)
      gap := BitVec.ofNat 32 (field body 14 4)
      payload := (body.drop 18).take audio
      trailer := if flags.getLsbD 1 then some (trailerOf (body.drop (18 + audio))) else none }
  else none

end Sys2Proof.Machine
end

