-- ==== Sys2Proof/Machine/Link.lean ====
section
/-! DEFINITION. The archive link (chapters 7 and 10): link states, holds, link words, received packets, the transmitter's choice and completion. -/

namespace Sys2Proof.Machine

/-! ### Counters and holds -/

/-- A change of the link counters. -/
def State.count (s : State) (f : LinkStats → LinkStats) : State := { s with tx := { s.tx with stats := f s.tx.stats } }

/-- A counter grown by 1, saturating (R170). -/
def bump (n : Nat) : Nat := sat Config.count32 (n + 1)

/-- A packet discarded as malformed is counted (R159). -/
def State.countMalformed (s : State) : State := s.count fun c => { c with malformed := bump c.malformed }

/-- BLOCK packets are held (R126): the gate at HOLD with the link UP, or the link not UP after it has been UP. -/
def State.holding (s : State) : Bool := if s.linkUp then s.tx.gate == .hold else s.tx.beenUp

/-- The hold after a change of the gate or the link (R126): it goes on, begins with its timer at 0, or ends. -/
def State.refreshHold (s : State) : State :=
  { s with tx := { s.tx with hold := if s.holding then some (s.tx.hold.getD ⟨0, false⟩) else none } }

/-- The hold timer at or beyond a hold limit that is not 0 sets LINK_STALL, once for the hold (R126). -/
def State.takeHoldLimit (s : State) : State :=
  match s.tx.hold with
  | some h =>
    if s.tx.holdLimit ≠ 0 ∧ s.tx.holdLimit ≤ h.timer ∧ h.stalled = false then
      ({ s with tx := { s.tx with hold := some { h with stalled := true } } } : State).raise (.device .linkStall)
    else s
  | none => s

/-- A whole millisecond of a hold (R126). Nothing when no hold exists (log 2). -/
def State.holdTick (s : State) : State :=
  match s.tx.hold with
  | some h =>
    ({ s with tx := { s.tx with hold := some { h with timer := h.timer + 1 } } } : State).count
      fun c => { c with holdTotal := bump c.holdTotal }
  | none => s

/-! ### Entering and leaving UP -/

/-- The entry to UP (R157, R158): the gate GO, a hold ended, a PACE ready, a STATUS notice ready. -/
def State.enterUp (s : State) : State :=
  ({ s with
    rx := { s.rx with state := .up, run := 0, packet := none }
    tx := { s.tx with gate := .go, beenUp := true, paceReady := true }
    events := { s.events with notices := s.events.notices ++ [.status] } } : State).refreshHold

/-- A packet in flight cut off (R128): a BLOCK returns to the head of the send queue, a REPLY stays the command unit's oldest, a NOTICE or a PACE is dropped. -/
def State.cutOff (s : State) : State :=
  let queue := match s.tx.inFlight with
    | some ⟨.block b, _⟩ => b :: s.memory.queue
    | _ => s.memory.queue
  { s with memory := { s.memory with queue := queue }, tx := { s.tx with inFlight := none } }

/-- A packet being received is broken off: discarded and counted (R159). -/
def State.breakPacket (s : State) : State :=
  match s.rx.packet with
  | some _ => ({ s with rx := { s.rx with packet := none } } : State).countMalformed
  | none => s

/-- The departure from UP, for DOWN (R158, R171): the packet in flight cut off, a packet being received counted as malformed, waiting
notices discarded, a hold beginning or going on, and a DEVICE_RESET whose reply was awaited due at once. -/
def State.leaveUp (s : State) : State :=
  let s := s.cutOff.breakPacket
  ({ s with
    rx := { s.rx with state := .down }
    events := { s.events with notices := [] }
    cmd := { s.cmd with reset := if s.cmd.reset = .replyAwaited then .due else s.cmd.reset } } : State).refreshHold

/-! ### Packets received -/

/-- A COMMAND takes its place in the command queue, or is dropped when 4 places are taken (R161). -/
def State.receiveCommand (s : State) (c : Command) : State :=
  let s := s.count fun n => { n with commands := bump n.commands }
  if s.cmd.done.length + s.cmd.waiting.length < Config.commandPlaces then
    { s with cmd := { s.cmd with waiting := s.cmd.waiting ++ [c] } }
  else s.raise (.device .commandDropped)

/-- A RECALL goes to the recall unit (R136, R159). -/
def State.receiveRecall (s : State) (p : RecallPacket) : State :=
  (s.count fun n => { n with recalls := bump n.recalls }).recall p

/-- A GATE sets the send gate; bit 0 of its byte is 1 for GO (R125, R175). -/
def State.receiveGate (s : State) (gate : Byte) : State :=
  let s := s.count fun n => { n with gates := bump n.gates }
  ({ s with tx := { s.tx with gate := if gate.getLsbD 0 then .go else .hold } } : State).refreshHold

/-- The data bytes between a start word and an end word, tested and dispatched (R159): the packet check, the kind, the length. -/
def State.receivePacket (s : State) (bytes : List Byte) : State :=
  let body := bytes.take (bytes.length - 2)
  if bytes.length < 3 || bytes != withCheck body then s.countMalformed
  else match body with
    | kind :: rest =>
      if kind = 0x01 then
        if 6 ≤ bytes.length && bytes.length ≤ 53 then
          s.receiveCommand ⟨BitVec.ofNat 16 (field rest 0 2), BitVec.ofNat 8 (field rest 2 1), rest.drop 3⟩
        else s.countMalformed
      else if kind = 0x05 then
        match recallOf rest with
        | some p => s.receiveRecall p
        | none => s.countMalformed
      else if kind = 0x06 then
        match rest with
        | [gate] => s.receiveGate gate
        | _ => s.countMalformed
      else s.countMalformed
    | [] => s.countMalformed

/-! ### Link words -/

/-- The classes of received words (R174). -/
inductive LinkWord where
  | idle
  | start
  | stop
  | data (byte : Byte)
  | unrecognised
  deriving DecidableEq, Repr

/-- The class of a 10-bit word: its prefix, then its byte (R174). -/
def classify (w : BitVec 10) : LinkWord :=
  let byte : Byte := w.extractLsb' 0 8
  match (w.extractLsb' 8 2).toNat with
  | 1 => .data byte
  | 2 =>
    if byte = 0x3C then .idle
    else if byte = 0x5B then .start
    else if byte = 0x5D then .stop
    else .unrecognised
  | _ => .unrecognised

/-- A word received in ALIGNING (R157): an idle word adds 1 to the alignment count, and 64 bring UP; any other word returns it to 0. -/
def State.alignWord (s : State) (w : LinkWord) : State :=
  if w = .idle then
    let s := { s with rx := { s.rx with align := s.rx.align + 1 } }
    if 64 ≤ s.rx.align then s.enterUp else s
  else { s with rx := { s.rx with align := 0 } }

/-- A word received in UP (R157, R159, R174): recognised words return the run count to 0 and frame packets; the eighth unrecognised word in a row takes the link DOWN. -/
def State.upWord (s : State) (w : LinkWord) : State :=
  match w with
  | .unrecognised =>
    let s := s.breakPacket
    let s := { s with rx := { s.rx with run := s.rx.run + 1 } }
    if 8 ≤ s.rx.run then s.leaveUp else s
  | .idle => ({ s with rx := { s.rx with run := 0 } } : State).breakPacket
  | .start =>
    let s := ({ s with rx := { s.rx with run := 0 } } : State).breakPacket
    { s with rx := { s.rx with packet := some [] } }
  | .data byte =>
    { s with rx := { s.rx with run := 0, packet := s.rx.packet.map fun bs => bs ++ [byte] } }
  | .stop =>
    match s.rx.packet with
    | some bytes => ({ s with rx := { s.rx with run := 0, packet := none } } : State).receivePacket bytes
    | none => { s with rx := { s.rx with run := 0 } }

/-- A received word (R157). In DOWN, a word while the signal is present brings ALIGNING and is judged there. -/
def State.receiveWord (s : State) (w : LinkWord) : State :=
  match s.rx.state with
  | .up => s.upWord w
  | .aligning => s.alignWord w
  | .down =>
    if s.rx.signal then ({ s with rx := { s.rx with state := .aligning, align := 0 } } : State).alignWord w
    else s

/-- A packet received whole: a start word, then its data words and its end word (R174; log 22). Outside UP its words are packet words of a
link that is not UP, which return the alignment count to 0 (R157). In UP it breaks off a packet being received (R159), returns the run
count to 0, and `dispatch` says what the packet does. -/
def State.wholePacket (s : State) (dispatch : State → State) : State :=
  let s := s.receiveWord .start
  if s.linkUp then dispatch { s with rx := { s.rx with packet := none } } else s

/-- A malformed packet (R159): discarded whole and counted. What broke it off is received after it; a start word inside it begins a new packet. -/
def State.malformed (s : State) (cause : Malformation) : State :=
  match cause with
  | .idleWordInside => (s.receiveWord .start).receiveWord .idle
  | .unrecognisedWordInside => (s.receiveWord .start).receiveWord .unrecognised
  | .startWordInside => (s.receiveWord .start).receiveWord .start
  | .badCheck => s.wholePacket State.countMalformed
  | .unknownKind => s.wholePacket State.countMalformed
  | .badLength => s.wholePacket State.countMalformed

/-- The received signal appears (R157). -/
def State.signalAppears (s : State) : State :=
  match s.rx.state with
  | .down => { s with rx := { s.rx with signal := true, state := .aligning, align := 0 } }
  | _ => { s with rx := { s.rx with signal := true } }

/-- The received signal is lost (R157, R158). -/
def State.signalLost (s : State) : State :=
  let s := { s with rx := { s.rx with signal := false } }
  match s.rx.state with
  | .up => s.leaveUp
  | .aligning => { s with rx := { s.rx with state := .down } }
  | .down => s

/-! ### The transmitter -/

/-- A packet begins to be sent, its bytes fixed as they stand (R127). -/
def State.begin (s : State) (p : Outbound) : State :=
  { s with tx := { s.tx with inFlight := some ⟨p, s.packetBytes p⟩ } }

/-- The arbiter's choice (R127), made by a free transmitter with the link UP: PACE, then REPLY, then NOTICE, then BLOCK when the gate is GO. -/
def State.transmit (s : State) : State :=
  if !s.linkUp || s.tx.inFlight.isSome then s
  else if s.tx.paceReady then
    let s := s.begin .pace
    { s with tx := { s.tx with paceReady := false } }
  else match s.cmd.done with
    | _ :: _ => s.begin .reply
    | [] =>
      match s.events.notices with
      | n :: rest =>
        let s := s.begin (.notice n)
        { s with events := { s.events with notices := rest } }
      | [] =>
        match s.tx.gate, s.memory.queue with
        | .go, b :: rest =>
          let s := s.begin (.block b)
          { s with memory := { s.memory with queue := rest } }
        | _, _ => s

/-- The packet in flight is complete (R128): counted; a BLOCK gives up its buffer or trailer place and freed buffers are granted (R117); a REPLY
gives up its place (R161), DEVICE_RESET's making the reset due (R171); the STATUS notice leaves the reset cause NONE (R160). -/
def State.complete (s : State) : State :=
  match s.tx.inFlight with
  | none => s
  | some f =>
    let s := { s with tx := { s.tx with inFlight := none } }
    match f.packet with
    | .pace => s.count fun c => { c with paces := bump c.paces }
    | .block _ => (s.count fun c => { c with blocks := bump c.blocks }).grant
    | .notice n =>
      let s := s.count fun c => { c with notices := bump c.notices }
      match n with
      | .status => { s with events := { s.events with cause := .none } }
      | .event _ _ => s
    | .reply =>
      let s := s.count fun c => { c with replies := bump c.replies }
      let done := s.cmd.done.drop 1
      { s with cmd := { s.cmd with
        done := done
        reset := if s.cmd.reset = .replyAwaited ∧ done.isEmpty then .due else s.cmd.reset } }

end Sys2Proof.Machine
end

