-- ==== Sys2Proof/Machine/Layout.lean ====
section
/-! DEFINITION. The result bytes of the commands (R177, R178; log 12). -/

namespace Sys2Proof.Machine

/-- A whole profile, in the order of R92's table (R94, R95, R176). -/
def Profile.bytes (p : Profile) : List Byte :=
  be 1 p.enabled.toNat ++ be 1 p.source.code ++ [rateByte p.rate] ++ be 1 p.channels.count ++ be 2 p.deck.toNat
    ++ be 2 p.blockSize.frames ++ be 1 p.quota ++ be 2 p.history ++ be 1 p.tolerance ++ be 3 p.low ++ be 3 p.high ++ be 2 p.ns
    ++ be 1 p.ng ++ be 3 p.clip ++ be 1 p.runK ++ be 1 p.cueMode.code ++ be 1 p.debounce ++ be 2 p.grace ++ be 2 p.quality
    ++ be 2 p.ratio.p ++ be 2 p.ratio.q

/-- LANE_STATUS, in the order of R96's table. Each declared value carries its own presence byte. -/
def Lane.statusBytes (x : Lane) : List Byte :=
  be 1 x.port.lock.code ++ be 4 x.port.measured ++ [rateByte x.inUse.rate] ++ be 1 x.inUse.channels.count ++ be 2 x.inUse.deck.toNat
    ++ [bit x.port.declared.isSome] ++ optional 2 (x.port.declared.map fun d => be 2 d.deck.toNat)
    ++ optional 1 (x.port.declared.map fun d => [rateByte d.rate]) ++ optional 1 (x.port.declared.map fun d => be 1 d.channels.count)
    ++ be 1 x.port.motion.code ++ [bit x.cue.level] ++ be 1 x.transfer.code ++ be 6 x.port.counter.toNat ++ be 2 x.port.injection
    ++ be 4 x.port.concealed ++ be 2 x.port.rejected

/-- A speed segment, 15 bytes (R178). -/
def Segment.bytes (g : Segment) : List Byte := be 5 g.start ++ be 2 g.ratio.p ++ be 2 g.ratio.q ++ be 6 g.programme

/-- A mark, 18 bytes (R178). -/
def Mark.bytes (m : Mark) : List Byte :=
  be 1 m.kind.code ++ be 5 m.offset ++ be 6 m.programme ++ be 5 m.extent ++ be 1 m.channelsCode

/-- The queueing part of an item record, after its state byte (R178). -/
def Queued.bytes (q : Queued) (l : LaneId) : List Byte :=
  be 4 q.item.toNat ++ be 1 l.val ++ be 1 q.startRule.code ++ be 1 q.ends.code ++ be 5 (if q.ends.length then q.target else 0)
    ++ be 2 q.preroll ++ be 1 q.label.length ++ q.label

/-- The recording part of an item record, its close reason 0 while OPEN (R178). The digest has the final exclusive-or applied (R122). -/
def Recording.bytes (r : Recording) (reason : Nat) : List Byte :=
  be 2 r.deck.toNat ++ [rateByte r.rate] ++ be 1 r.channels.count ++ be 6 r.start.toNat ++ be 5 r.length ++ be 6 r.programme
    ++ be 2 r.droppedMarks ++ be 3 r.peakA ++ be 3 r.peakB ++ be 4 r.concealed ++ be 4 r.lost ++ be 4 r.overloads ++ be 4 r.blocks
    ++ be 4 (digestOf r.crc).toNat ++ be 1 r.flags.code ++ be 1 reason
    ++ be 1 r.segments.length ++ r.segments.flatMap Segment.bytes ++ be 1 r.marks.length ++ r.marks.flatMap Mark.bytes

/-- An item record as ITEM_READ returns it (R18, R178): state 1 QUEUED, 2 OPEN, 3 CLOSED. -/
def Found.bytes : Found → List Byte
  | .queued l _ q => 1 :: q.bytes l
  | .opened l o => 2 :: (o.queued.bytes l ++ o.record.bytes 0)
  | .closed c => 3 :: (c.queued.bytes c.lane ++ c.record.bytes c.reason.code)

/-- One lane's part of TABLE_STATUS (R19). A list is preceded by its count. -/
def Lane.tableBytes (x : Lane) : List Byte :=
  be 1 x.transfer.code ++ optional 4 (x.item.map fun o => be 4 o.queued.item.toNat)
    ++ be 1 x.queue.length ++ x.queue.flatMap fun q => be 4 q.item.toNat

/-- A closed record's part of TABLE_STATUS (R19). -/
def ClosedRecord.tableBytes (c : ClosedRecord) : List Byte :=
  be 4 c.queued.item.toNat ++ be 1 c.lane.val ++ be 1 c.reason.code

/-- TABLE_STATUS (R19). -/
def State.tableBytes (s : State) : List Byte :=
  (List.finRange 8).flatMap (fun l => (s.lane l).tableBytes)
    ++ be 1 s.closedRecords ++ s.table.closed.flatMap ClosedRecord.tableBytes ++ be 1 s.freeRecords

/-- LINK_STATS, in the order of R170's table. -/
def LinkStats.bytes (c : LinkStats) : List Byte :=
  be 4 c.commands ++ be 4 c.recalls ++ be 4 c.gates ++ be 4 c.replies ++ be 4 c.notices ++ be 4 c.blocks ++ be 4 c.paces
    ++ be 4 c.malformed ++ be 4 c.holdTotal

/-- ROUTE_READ of a route (R135, R178). -/
def routeBytes (r : RouteId) : Option Route → List Byte
  | none => be 1 r.val ++ be 1 0
  | some t =>
    be 1 r.val ++ be 1 t.state.code ++ be 4 t.item.toNat ++ be 1 t.sink.code ++ optional 4 (t.expected.map fun d => be 4 d.toNat)
      ++ be 2 t.idleLimit ++ be 4 t.next ++ be 4 (digestOf t.crc).toNat ++ be 5 t.frames ++ be 4 t.blocks ++ be 4 t.gaps
      ++ be 4 t.badChecks ++ be 4 t.discarded ++ be 4 t.duplicates ++ be 4 t.late
      ++ optional 2 (t.format.map fun f => [rateByte f.rate] ++ be 1 f.channels.count)
      ++ be 1 (causeCode t.cause) ++ optional 26 (t.trailer.map trailerBytes)

/-- MONITOR_STATUS, in the order of R155's table. -/
def State.monitorBytes (s : State) (m : Monitor) : List Byte :=
  m.source.bytes ++ be 1 m.state.code ++ [rateByte (s.outputRate m)] ++ be 2 m.fifo.length
    ++ optional 4 (m.ref.map fun f =>
      be 1 f.route.val ++ [rateByte f.format.rate] ++ be 1 f.format.channels.count ++ [bit f.final])
    ++ be 1 m.pace.code ++ be 4 m.underruns

end Sys2Proof.Machine
end

