-- ==== Sys2Proof/Machine/Operands.lean ====
section
/-! DEFINITION. The parameters of commands, read from their bytes by the command code table (R176, R177), with the clamping of LANE_SET (R94). -/

namespace Sys2Proof.Machine

/-! ### LANE_SET (R92, R93, R94) -/

/-- The fixed group written over a profile, each numeric field clamped; none when an enumerated field holds none of its values. -/
def fixedGroup (ps : List Byte) (p : Profile) : Option Profile :=
  match SourceMode.ofCode (field ps 3 1), rateOfNat (field ps 4 1), Channels.ofCode (field ps 5 1), BlockSize.ofCode (field ps 8 2) with
  | some source, some rate, some channels, some blockSize =>
    if field ps 2 1 ≤ 1 then
      some { p with
        enabled := field ps 2 1 == 1
        source := source
        rate := rate
        channels := channels
        deck := BitVec.ofNat 16 (field ps 6 2)
        blockSize := blockSize
        quota := clamp 2 64 (field ps 10 1)
        history := clamp 0 8192 (field ps 11 2)
        tolerance := clamp 1 20 (field ps 13 1) }
    else none
  | _, _, _, _ => none

/-- The live group written over a profile, each numeric field clamped, the high threshold not below the low. -/
def liveGroup (ps : List Byte) (p : Profile) : Option Profile :=
  match CueMode.ofCode (field ps 27 1) with
  | some cueMode =>
    let low := clamp 0 8388607 (field ps 14 3)
    some { p with
      low := low
      high := max low (clamp 0 8388607 (field ps 17 3))
      ns := clamp 1 6000 (field ps 20 2)
      ng := clamp 1 100 (field ps 22 1)
      clip := clamp 1 8388608 (field ps 23 3)
      runK := clamp 1 16 (field ps 26 1)
      cueMode := cueMode
      debounce := clamp 1 255 (field ps 28 1)
      grace := clamp 0 5000 (field ps 29 2)
      quality := clamp 1 1000 (field ps 31 2) }
  | none => none

/-- The groups the selector names written over a profile: 0 FIXED, 1 LIVE, 2 BOTH. -/
def selectedGroups (ps : List Byte) (p : Profile) : Option Profile :=
  match field ps 1 1 with
  | 0 => fixedGroup ps p
  | 1 => liveGroup ps p
  | 2 => (fixedGroup ps p).bind (liveGroup ps)
  | _ => none

/-- The speed ratio that LANE_SET carries. -/
def laneSetRatio (ps : List Byte) : Ratio := ⟨field ps 33 2, field ps 35 2⟩

/-! ### ITEM_QUEUE (R12, R13) -/

/-- The parameters of ITEM_QUEUE after its lane. -/
structure QueueParams where
  item : Item
  startRule : StartRule
  ends : EndConditions
  target : Nat
  preroll : Nat
  label : List Byte
  deriving DecidableEq, Repr

/-- The parameters of ITEM_QUEUE when they are well formed (R13). -/
def queueParams (ps : List Byte) : Option QueueParams :=
  let target := field ps 7 5
  match StartRule.ofCode (field ps 5 1), EndConditions.ofCode (field ps 6 1) with
  | some startRule, some ends =>
    if field ps 1 4 ≠ 0 && (if ends.length then target != 0 else target == 0) && field ps 12 2 ≤ 8192 && field ps 14 1 ≤ 32 then
      some ⟨BitVec.ofNat 32 (field ps 1 4), startRule, ends, target, field ps 12 2, ps.drop 15⟩
    else none
  | _, _ => none

/-! ### The rest -/

/-- The item number that the item commands carry first. -/
def itemParam (ps : List Byte) : Item := BitVec.ofNat 32 (field ps 0 4)

/-- The parameters of ROUTE_SET that pass its first test (R133). -/
structure RouteParams where
  item : Item
  sink : Sink
  idleLimit : Nat
  expected : Option (BitVec 32)
  deriving DecidableEq, Repr

/-- The first test of ROUTE_SET (R133, R176). -/
def routeParams (ps : List Byte) : Option RouteParams :=
  let idle := field ps 5 2
  match Sink.ofCode (field ps 4 1) with
  | some sink =>
    if field ps 0 4 ≠ 0 && (idle == 0 || (100 ≤ idle && idle ≤ 60000)) && field ps 7 1 ≤ 1 then
      some ⟨BitVec.ofNat 32 (field ps 0 4), sink, idle,
        if field ps 7 1 = 1 then some (BitVec.ofNat 32 (field ps 8 4)) else none⟩
    else none
  | none => none

end Sys2Proof.Machine
end

