-- ==== Sys2Proof/Machine/Resets.lean ====
section
/-! DEFINITION. The resets of the part, and the two consequences that come at once (R21, R52, R98, R112, R126, R129, R147, R156, R171, R172). -/

namespace Sys2Proof.Machine

/-- The lanes after a reset of the whole part. Each cue line keeps its input level and is sampled afresh: a line held low starts a debounce (R90) unless the RESET line holds the unit (R21). -/
def State.resetLanes (s : State) (held : Bool) : Vector Lane 8 :=
  s.lanes.map fun x =>
    Lane.afterReset x.cue.low (if x.cue.low && !held then some Profile.default.debounce else none)

/-- Every unit in its reset state with a reset cause; the inputs and the model's own fields stay (R21, R172; log 8). -/
def State.resetAll (s : State) (held : Bool) (cause : ResetCause) : State :=
  { State.reset with
    lanes := s.resetLanes held
    rx := ⟨.down, s.rx.signal, 0, 0, none⟩
    events := EventUnit.reset cause
    resetLow := held
    freeDraws := s.freeDraws
    pending := s.pending }

/-- DEVICE_RESET takes effect (R171, R172): the units reset; the link, the notice mask, the hold limit and the link statistics are kept;
the gate is GO, and a hold goes on only when the link is not UP (R129). A changed pace state makes a PACE ready (R156), and one already waiting goes on waiting: the
model's choice (log 25). With the link UP a STATUS notice is made ready. -/
def State.deviceReset (s : State) : State :=
  { State.reset with
    lanes := s.resetLanes false
    tx := { s.tx with
      gate := .go
      hold := if s.linkUp then none else s.tx.hold
      inFlight := none
      paceReady := s.tx.paceReady || s.monA.pace == .hold || s.monB.pace == .hold }
    rx := s.rx
    events := { EventUnit.reset .deviceReset with
      mask := s.events.mask
      notices := if s.linkUp then [.status] else [] }
    freeDraws := s.freeDraws
    resetLow := s.resetLow
    pending := s.pending }

/-- A DEVICE_RESET that is due takes effect (R171). -/
def State.takeReset (s : State) : State := if s.cmd.reset = .due then s.deviceReset else s

/-- What is due at once happens before any other event (R126, R171; log 6). -/
def State.settle (s : State) : State := s.takeReset.takeHoldLimit

/-- An event at the part: while the RESET line is held low every unit is held in its reset state and nothing happens (R21, R157; log 7);
otherwise what is due comes first and then the event. -/
def running (s : State) (f : State → State) : Host.Outcome State Fault Refusal :=
  .next (if s.resetLow then s else f s.settle)

end Sys2Proof.Machine
end

