-- ==== Sys2Proof/Machine/Commands.lean ====
section
/-! DEFINITION. How the command unit executes a command (R162, R163). -/

namespace Sys2Proof.Machine

/-- What a command does: the state after its point of effect, its status and its result. -/
structure Reaction where
  state : State
  status : Status
  result : List Byte
  deriving DecidableEq, Repr

/-- An accepted command (R163). -/
def accept (s : State) (result : List Byte := []) : Reaction := ⟨s, .ok, result⟩

/-- A refused command: the state it names as it was, and no result (R162, R163). -/
def refuse (s : State) (status : Status) : Reaction := ⟨s, status, []⟩

/-- The command at the front is taken for execution. -/
def State.takeCommand (s : State) : State := { s with cmd := { s.cmd with waiting := s.cmd.waiting.drop 1 } }

/-- The reply to the command `c` built, with the summary as it stands after the command's point of effect; the command keeps its place with its reply (R161, R162, R163). -/
def Reaction.reply (r : Reaction) (c : Command) : State :=
  { r.state with cmd := { r.state.cmd with done := r.state.cmd.done ++ [⟨c.tag, c.code, r.status, r.result, r.state.summary⟩] } }

/-- The command unit executes the command at the front of its queue when its code is one of this row's (R162): it takes effect and its
reply is built. Nothing happens when no such command stands there or a DEVICE_RESET stops execution (R171; log 2). -/
def State.runCommand (s : State) (mine : Byte → Bool) (body : List Byte → State → Reaction) : State :=
  match s.cmd.reset, s.cmd.waiting with
  | .idle, c :: _ => if mine c.code then (body c.params s.takeCommand).reply c else s
  | _, _ => s

/-- A step of the command unit for one command code (R162). -/
def command (s : State) (code : Byte) (body : List Byte → State → Reaction) : Host.Outcome State Fault Refusal :=
  running s fun s => s.runCommand (fun c => c == code) body

/-- Test 2 of R162: exactly the parameter bytes the command requires, or BAD_PARAM. -/
def counted (n : Nat) (body : List Byte → State → Reaction) (ps : List Byte) (s : State) : Reaction :=
  if ps.length = n then body ps s else refuse s .badParam

/-- The lane that a command names first, or BAD_LANE. -/
def onLane (body : LaneId → List Byte → State → Reaction) (ps : List Byte) (s : State) : Reaction :=
  match laneOfNat (field ps 0 1) with
  | some l => body l ps s
  | none => refuse s .badLane

end Sys2Proof.Machine
end

