-- ==== Sys2Proof/Machine/ItemCommands.lean ====
section
/-! DEFINITION. The item commands (chapters 1, 2 and 4). -/

namespace Sys2Proof.Machine

/-- A record of the free pool whose trailer place is free (R120); which one is not observable (R7; log 10). -/
def State.offeredRecord (s : State) : Option Nat := s.table.pool.find? fun r => !s.placeHeld r

/-- An arming instant when the lane has an empty open slot and a head (R11). -/
def Lane.armIfWaiting (x : Lane) : Lane := if x.item.isNone && !x.queue.isEmpty then x.arm else x

/-- ITEM_QUEUE (R12, R13, R14), its tests in order. -/
def itemQueue (l : LaneId) (ps : List Byte) (s : State) : Reaction :=
  let x := s.lane l
  if !x.profile.enabled then refuse s .laneOff
  else match queueParams ps with
    | none => refuse s .badParam
    | some p =>
      if (s.find p.item).isSome then refuse s .duplicate
      else match s.offeredRecord with
        | none => refuse s .tableFull
        | some record =>
          if Config.queuePlaces ≤ x.queue.length then refuse s .queueFull
          else
            let q : Queued := ⟨record, p.item, p.startRule, p.ends, p.target, p.preroll, p.label⟩
            let s := { s with table := { s.table with pool := s.table.pool.erase record } }
            let y := { x with queue := x.queue ++ [q] }
            accept (s.setLane l (if x.queue.isEmpty then y.armIfWaiting else y)) (be 1 x.queue.length)

/-- ITEM_QUEUE takes 15 parameter bytes and as many more as its label length byte says (R177). -/
def execItemQueue (s : State) : Host.Outcome State Fault Refusal :=
  command s 0x30 fun ps s =>
    if 15 ≤ ps.length && ps.length == 15 + field ps 14 1 then onLane itemQueue ps s else refuse s .badParam

/-- ITEM_WITHDRAW (R15): the record returns to the pool, and a withdrawn head of a lane with an empty open slot arms the follower (R11). -/
def itemWithdraw (ps : List Byte) (s : State) : Reaction :=
  match s.find (itemParam ps) with
  | none => refuse s .unknownItem
  | some (.queued l position q) =>
    let s := { s with table := { s.table with pool := s.table.pool ++ [q.record] } }
    let s := s.mapLane l fun x =>
      let y := { x with queue := x.queue.eraseIdx position }
      if position = 0 then y.armIfWaiting else y
    accept s (be 1 l.val ++ be 1 position)
  | some _ => refuse s .wrongState

def execItemWithdraw (s : State) : Host.Outcome State Fault Refusal := command s 0x31 (counted 4 itemWithdraw)

/-- ITEM_START (R46), its tests in order. The head opens at once (R32); the result is the lane, the start position and P_eff. -/
def itemStart (ps : List Byte) (s : State) : Reaction :=
  match s.find (itemParam ps) with
  | none => refuse s .unknownItem
  | some (.queued l position q) =>
    let x := s.lane l
    if position ≠ 0 || x.transfer != .armed then refuse s .wrongState
    else if x.port.lock ≠ .locked then refuse s .notLocked
    else
      let taken := (prerollOf q x.eligibleFrames).length
      accept (s.openNow l) (be 1 l.val ++ be 6 (x.port.counter - BitVec.ofNat 48 taken).toNat ++ be 2 taken)
  | some _ => refuse s .wrongState

def execItemStart (s : State) : Host.Outcome State Fault Refusal := command s 0x32 (counted 4 itemStart)

/-- The close of the open item that a command names (R48); the result is its final length and programme length. -/
def closeByCommand (reason : CloseReason) (ps : List Byte) (s : State) : Reaction :=
  match s.find (itemParam ps) with
  | none => refuse s .unknownItem
  | some (.opened l o) => accept (s.closeItem l reason) (be 5 o.record.length ++ be 6 o.record.programme)
  | some _ => refuse s .wrongState

/-- ITEM_END (R48). -/
def execItemEnd (s : State) : Host.Outcome State Fault Refusal := command s 0x33 (counted 4 (closeByCommand .command))

/-- ITEM_ABANDON (R49). -/
def execItemAbandon (s : State) : Host.Outcome State Fault Refusal := command s 0x34 (counted 4 (closeByCommand .abandoned))

/-- ITEM_MARK (R76): an OPERATOR mark at the current length. The result carries offset, programme time, stored or dropped, the position of a stored mark and the dropped-marks count of a dropped one. -/
def itemMark (ps : List Byte) (s : State) : Reaction :=
  let code := field ps 4 4
  if 65535 < code then refuse s .badParam
  else match s.find (itemParam ps) with
    | none => refuse s .unknownItem
    | some (.opened l o) =>
      let m := o.record.newMark .operator o.record.length code false false
      let (o, ref) := o.raiseMark m
      let (stored, position) := match ref with
        | .stored serial => (true, o.record.marks.findIdx fun x => x.serial == serial)
        | .dropped _ => (false, 0)
      accept (s.mapLane l fun x => { x with item := some o })
        (be 5 m.offset ++ be 6 m.programme ++ [bit (!stored)]
          ++ optional 1 (if stored then some (be 1 position) else none)
          ++ optional 2 (if stored then none else some (be 2 o.record.droppedMarks)))
    | some _ => refuse s .wrongState

def execItemMark (s : State) : Host.Outcome State Fault Refusal := command s 0x35 (counted 8 itemMark)

/-- ITEM_READ (R18). -/
def itemRead (ps : List Byte) (s : State) : Reaction :=
  match s.find (itemParam ps) with
  | none => refuse s .unknownItem
  | some found => accept s found.bytes

def execItemRead (s : State) : Host.Outcome State Fault Refusal := command s 0x36 (counted 4 itemRead)

/-- ITEM_RELEASE (R17): a CLOSED record leaves the closed list at its position and returns to the pool. -/
def itemRelease (ps : List Byte) (s : State) : Reaction :=
  match s.find (itemParam ps) with
  | none => refuse s .unknownItem
  | some (.closed c) =>
    accept { s with table := {
      closed := s.table.closed.eraseP fun x => x.queued.item == c.queued.item
      pool := s.table.pool ++ [c.queued.record] } }
  | some _ => refuse s .wrongState

def execItemRelease (s : State) : Host.Outcome State Fault Refusal := command s 0x37 (counted 4 itemRelease)

/-- TABLE_STATUS (R19). -/
def tableStatus (_ps : List Byte) (s : State) : Reaction := accept s s.tableBytes

def execTableStatus (s : State) : Host.Outcome State Fault Refusal := command s 0x38 (counted 0 tableStatus)

end Sys2Proof.Machine
end

