-- ==== Sys2Proof/Machine/LaneCommands.lean ====
section
/-! DEFINITION. The lane commands (chapters 3 and 5, and LANE_RESET). -/

namespace Sys2Proof.Machine

/-- A profile taking effect (R94, R111): the ring is trimmed to the history length, and a change of the rate code or channels in use or of
the tolerance restarts measurement (R82), a departure from LOCKED reaching the cutting engine as a loss (R83). -/
def State.applyProfile (s : State) (l : LaneId) (p : Profile) : State :=
  let x := s.lane l
  let s := s.mapLane l fun x => ({ x with profile := p } : Lane).trimRing
  let y := s.lane l
  if x.inUse.rate != y.inUse.rate || x.inUse.channels != y.inUse.channels || x.profile.tolerance != p.tolerance then
    let s := s.restartMeasurement l
    if x.port.lock = .locked then s.loseLock l else s
  else s

/-- LANE_SET (R93, R94), its tests in order. The ratio is tested and written only when the command enables an OFF lane (R53). -/
def laneSet (l : LaneId) (ps : List Byte) (s : State) : Reaction :=
  let x := s.lane l
  match selectedGroups ps x.profile with
  | none => refuse s .badParam
  | some p =>
    let fixed := field ps 1 1 != 1
    let enabling := !x.profile.enabled && p.enabled
    if fixed && (x.transfer == .recording || x.transfer == .dropout) then refuse s .laneBusy
    else if x.profile.enabled && !p.enabled && x.transfer != .idle then refuse s .laneBusy
    else if enabling && !(laneSetRatio ps).valid then refuse s .badRatio
    else
      let p := if enabling then { p with ratio := laneSetRatio ps } else p
      accept (s.applyProfile l p) p.bytes

def execLaneSet (s : State) : Host.Outcome State Fault Refusal := command s 0x20 (counted 37 (onLane laneSet))

/-- LANE_GET (R95). -/
def laneGet (l : LaneId) (_ps : List Byte) (s : State) : Reaction := accept s (s.lane l).profile.bytes

def execLaneGet (s : State) : Host.Outcome State Fault Refusal := command s 0x21 (counted 1 (onLane laneGet))

/-- LANE_STATUS (R96): the live state, then the concealment and rejected-word counters cleared. -/
def laneStatus (l : LaneId) (_ps : List Byte) (s : State) : Reaction :=
  accept (s.mapLane l fun x => { x with port := { x.port with concealed := 0, rejected := 0 } }) (s.lane l).statusBytes

def execLaneStatus (s : State) : Host.Outcome State Fault Refusal := command s 0x22 (counted 1 (onLane laneStatus))

/-- A lane after LANE_RESET: the profile kept, the port, detector, ring and cutting engine reset, the cue line sampled afresh (R51, R90, R97, R112). -/
def Lane.laneReset (x : Lane) : Lane :=
  { Lane.afterReset x.cue.low (if x.cue.low then some x.profile.debounce else none) with profile := x.profile }

/-- LANE_RESET (R22, R51, R97, R130, R172) as one step: the lane's flags cleared, the open item closed, the queue freed without arming, the units reset. -/
def laneReset (l : LaneId) (_ps : List Byte) (s : State) : Reaction :=
  let x := s.lane l
  let s := { s with events := { s.events with lanes := s.events.lanes.set l 0 } }
  let s := s.closeItem l .laneReset
  let s := { s with table := { s.table with pool := s.table.pool ++ x.queue.map Queued.record } }
  accept (s.mapLane l Lane.laneReset)
    (be 1 x.queue.length ++ be 4 ((x.item.map fun o => o.queued.item.toNat).getD 0))

def execLaneReset (s : State) : Host.Outcome State Fault Refusal := command s 0x23 (counted 1 (onLane laneReset))

/-- The pending change of an open item after SPEED_SET of a ratio (R62); none when the change does not fit the item. -/
def OpenItem.speedSet (o : OpenItem) (r : Ratio) : Option OpenItem :=
  if r.same o.record.ratioInForce then some { o with pendingSpeed := none }
  else if o.record.segments.length < Config.segmentPlaces then some { o with pendingSpeed := some r }
  else none

/-- SPEED_SET (R61, R62). -/
def speedSet (l : LaneId) (ps : List Byte) (s : State) : Reaction :=
  let x := s.lane l
  let r : Ratio := ⟨field ps 1 2, field ps 3 2⟩
  if !x.profile.enabled then refuse s .laneOff
  else if !r.valid then refuse s .badRatio
  else match x.item with
    | none =>
      accept (s.mapLane l fun x => { x with profile := { x.profile with ratio := r } })
        (be 2 r.p ++ be 2 r.q ++ be 4 0 ++ be 1 0 ++ [bit false])
    | some o =>
      match o.speedSet r with
      | none => refuse s .segmentsFull
      | some o =>
        accept (s.mapLane l fun x => { x with profile := { x.profile with ratio := r }, item := some o })
          (be 2 r.p ++ be 2 r.q ++ be 4 o.queued.item.toNat ++ be 1 o.record.segments.length ++ [bit o.pendingSpeed.isSome])

def execSpeedSet (s : State) : Host.Outcome State Fault Refusal := command s 0x24 (counted 5 (onLane speedSet))

/-- INJECT (R86): the countdown loaded with k, the replaced one returned. -/
def inject (l : LaneId) (ps : List Byte) (s : State) : Reaction :=
  let k := field ps 1 2
  if 1 ≤ k ∧ k ≤ 256 then
    accept (s.mapLane l fun x => { x with port := { x.port with injection := k } }) (be 2 (s.lane l).port.injection)
  else refuse s .badParam

def execInject (s : State) : Host.Outcome State Fault Refusal := command s 0x25 (counted 3 (onLane inject))

end Sys2Proof.Machine
end

