-- ==== Sys2Proof/Machine/LaneEvents.lean ====
section
/-! DEFINITION. The events of the lanes and of the monitor outputs (chapters 2, 5, 6 and 9). -/

namespace Sys2Proof.Machine

/-- ARRIVING_FRAME (R80, R84). -/
def execArrivingFrame (l : LaneId) (slot : Slot) (s : State) : Host.Outcome State Fault Refusal :=
  running s fun s => s.slotArrives l slot

/-- INJECTION_COUNTDOWN_END (R86): the taken frame that brings the countdown to 0; nothing when the next frame taken would not (log 2, log 5). -/
def execInjectionCountdownEnd (l : LaneId) (slot : Slot) (s : State) : Host.Outcome State Fault Refusal :=
  running s fun s =>
    if (s.lane l).port.lock = .locked ∧ (s.lane l).port.injection = 1 then s.slotArrives l slot else s

/-- The next frame taken completes the detector window (R100). -/
def Lane.windowEnding (x : Lane) : Bool :=
  match x.detector.window with
  | some w => w.frames + 1 == windowFrames x.inUse.rate
  | none => false

/-- DETECTOR_WINDOW_END (R101): the taken frame that completes a detector window, handled whole with the window's judgement (R34, R84, R102); nothing when the next frame taken would not complete one (log 2, log 5). -/
def execDetectorWindowEnd (l : LaneId) (slot : Slot) (s : State) : Host.Outcome State Fault Refusal :=
  running s fun s =>
    if (s.lane l).port.lock = .locked ∧ (s.lane l).windowEnding then s.slotArrives l slot else s

/-- RATE_WINDOW_END (R81, R82). -/
def execRateWindowEnd (l : LaneId) (edges span sinceLoss : Nat) (s : State) : Host.Outcome State Fault Refusal :=
  running s fun s => s.endWindow l edges span sinceLoss

/-- CLOCK_LOSS (R81). -/
def execClockLoss (l : LaneId) (s : State) : Host.Outcome State Fault Refusal :=
  running s fun s => s.loseClock l

/-- DROPOUT_EXPIRY (R43); nothing when no dropout timer runs (log 2). -/
def execDropoutExpiry (l : LaneId) (s : State) : Host.Outcome State Fault Refusal :=
  running s fun s => s.expireDropout l

/-- CUE_LINE_CHANGE (R90). While the RESET line is low only the input level is kept (log 7). -/
def execCueLineChange (l : LaneId) (low : Bool) (s : State) : Host.Outcome State Fault Refusal :=
  .next (if s.resetLow then s.mapLane l fun x => { x with cue := { x.cue with low := low } }
    else s.settle.mapLane l fun x => { x with cue := x.cue.sample low x.profile.debounce })

/-- CUE_DEBOUNCE_END (R90, R91). -/
def execCueDebounceEnd (l : LaneId) (s : State) : Host.Outcome State Fault Refusal :=
  running s fun s => s.endDebounce l

/-- MONITOR_OUTPUT_FRAME (R148, R150, R152). -/
def execMonitorOutputFrame (port : MonitorId) (s : State) : Host.Outcome State Fault Refusal :=
  running s fun s => s.outputFrame port

end Sys2Proof.Machine
end

