-- ==== Sys2Proof/Machine/LinkEvents.lean ====
section
/-! DEFINITION. The events of the archive link (chapters 7, 8 and 10). -/

namespace Sys2Proof.Machine

/-- LINK_SIGNAL_APPEAR (R157). While the RESET line is low the link stays DOWN and only the input is kept (log 7). -/
def execLinkSignalAppear (s : State) : Host.Outcome State Fault Refusal :=
  .next (if s.resetLow then { s with rx := { s.rx with signal := true } } else s.settle.signalAppears)

/-- LINK_SIGNAL_LOST (R157, R158). -/
def execLinkSignalLost (s : State) : Host.Outcome State Fault Refusal :=
  .next (if s.resetLow then { s with rx := { s.rx with signal := false } } else s.settle.signalLost)

/-- LINK_WORD (R157, R174). A word inside a packet is one too: it continues, ends or breaks the packet (R159; log 22). -/
def execLinkWord (w : BitVec 10) (s : State) : Host.Outcome State Fault Refusal :=
  running s fun s => s.receiveWord (classify w)

/-- COMMAND_PACKET (R161). A COMMAND longer than the longest is malformed (R159, R175; log 28). -/
def execCommandPacket (tag : BitVec 16) (code : Byte) (params : List Byte) (s : State) : Host.Outcome State Fault Refusal :=
  running s fun s => s.wholePacket fun s =>
    if params.length ≤ 47 then s.receiveCommand ⟨tag, code, params⟩ else s.countMalformed

/-- RECALL_PACKET (R136). A RECALL whose length differs from the one its header gives is malformed (R159, R175; log 28). -/
def execRecallPacket (p : RecallPacket) (s : State) : Host.Outcome State Fault Refusal :=
  running s fun s => s.wholePacket fun s =>
    if p.payload.length = p.frames.toNat * p.channels.toNat * 3 ∧ p.trailer.isSome = packetLast p then s.receiveRecall p
    else s.countMalformed

/-- ROUTE_IDLE_TIMEOUT (R145); nothing when the route's idle timer does not run (log 2). -/
def execRouteIdleTimeout (r : RouteId) (s : State) : Host.Outcome State Fault Refusal :=
  running s fun s => s.idleOut r

/-- GATE_PACKET (R125). -/
def execGatePacket (gate : Byte) (s : State) : Host.Outcome State Fault Refusal :=
  running s fun s => s.wholePacket fun s => s.receiveGate gate

/-- MALFORMED_PACKET (R159). -/
def execMalformedPacket (cause : Malformation) (s : State) : Host.Outcome State Fault Refusal :=
  running s fun s => s.malformed cause

/-- HOLD_LIMIT_REACHED (R126): LINK_STALL set once for the hold; nothing when the timer has not reached a limit (log 2). -/
def execHoldLimitReached (s : State) : Host.Outcome State Fault Refusal :=
  running s fun s => s.takeHoldLimit

/-- TRANSMIT_START (R127). -/
def execTransmitStart (s : State) : Host.Outcome State Fault Refusal :=
  running s fun s => s.transmit

/-- PACKET_SENT (R128). -/
def execPacketSent (s : State) : Host.Outcome State Fault Refusal :=
  running s fun s => s.complete

/-- HOLD_MILLISECOND (R126). -/
def execHoldMillisecond (s : State) : Host.Outcome State Fault Refusal :=
  running s fun s => s.holdTick

end Sys2Proof.Machine
end

