-- ==== Sys2Proof/Machine/Management.lean ====
section
/-! DEFINITION. The management commands (chapter 10). -/

namespace Sys2Proof.Machine

/-- PROBE (R169): identity, pattern, capacities; nothing changes. -/
def probe (_ps : List Byte) (s : State) : Reaction := accept s identity

def execProbe (s : State) : Host.Outcome State Fault Refusal := command s 0x01 (counted 0 probe)

/-- DEVICE_RESET (R171): the reply is built at once and execution stops; the reset is due when the reply has been sent, or at once when the link is not UP. -/
def deviceResetCommand (_ps : List Byte) (s : State) : Reaction :=
  accept { s with cmd := { s.cmd with reset := if s.linkUp then .replyAwaited else .due } }

def execDeviceReset (s : State) : Host.Outcome State Fault Refusal := command s 0x02 (counted 0 deviceResetCommand)

/-- LINK_STATS (R170): every counter, then all of them cleared. -/
def linkStats (_ps : List Byte) (s : State) : Reaction :=
  accept (s.count fun _ => LinkStats.zero) s.tx.stats.bytes

def execLinkStats (s : State) : Host.Outcome State Fault Refusal := command s 0x03 (counted 0 linkStats)

/-- EVENT_READ (R166): all flags as they stand, then the selected ones cleared; notices waiting stay. -/
def eventRead (ps : List Byte) (s : State) : Reaction :=
  match Selection.ofParams ps with
  | some sel => accept { s with events := sel.flags.foldl EventUnit.unmark s.events } s.events.bytes
  | none => refuse s .badParam

def execEventRead (s : State) : Host.Outcome State Fault Refusal := command s 0x10 (counted 11 eventRead)

/-- EVENT_MASK (R167): mask and hold limit written, the replaced ones returned; the new limit applies to the hold in progress (R126). -/
def eventMask (ps : List Byte) (s : State) : Reaction :=
  let limit := field ps 2 2
  if field ps 0 2 < 512 ∧ (limit = 0 ∨ (10 ≤ limit ∧ limit ≤ 60000)) then
    let written : State := { s with
      events := { s.events with mask := BitVec.ofNat 9 (field ps 0 2) }
      tx := { s.tx with holdLimit := limit } }
    accept written.takeHoldLimit (be 2 s.events.mask.toNat ++ be 2 s.tx.holdLimit)
  else refuse s .badParam

def execEventMask (s : State) : Host.Outcome State Fault Refusal := command s 0x11 (counted 4 eventMask)

/-- EVENT_FORCE (R168): every selected flag raised, item numbers of their subjects 0. -/
def eventForce (ps : List Byte) (s : State) : Reaction :=
  match Selection.ofParams ps with
  | some sel => accept (sel.flags.foldl (fun s f => s.raise f) s)
  | none => refuse s .badParam

def execEventForce (s : State) : Host.Outcome State Fault Refusal := command s 0x12 (counted 11 eventForce)

/-- A command code that is none of the part's (R162, test 1). -/
def execUnknownCommandCode (s : State) : Host.Outcome State Fault Refusal :=
  running s fun s => s.runCommand (fun c => !commandCodes.contains c) fun _ s => refuse s .unknownCommand

end Sys2Proof.Machine
end

