-- ==== Sys2Proof/Machine/ResetEvents.lean ====
section
/-! DEFINITION. The resets of the whole part as events (R21, R160, R171). -/

namespace Sys2Proof.Machine

/-- DEVICE_RESET_EFFECT (R171): a reset that is due takes effect; nothing when none is (log 2). -/
def execDeviceResetEffect (s : State) : Host.Outcome State Fault Refusal :=
  .next (if s.resetLow then s else s.takeReset)

/-- POWER_ON (R21, R160, R172). -/
def execPowerOn (s : State) : Host.Outcome State Fault Refusal := .next (s.resetAll s.resetLow .powerOn)

/-- RESET_LINE_ASSERT (R21, R157): every unit held in its reset state and the link DOWN; the reset cause changes at the release (R160). -/
def execResetLineAssert (s : State) : Host.Outcome State Fault Refusal := .next (s.resetAll true s.events.cause)

/-- RESET_LINE_RELEASE (R21, R160); nothing when the line is not low (log 2). -/
def execResetLineRelease (s : State) : Host.Outcome State Fault Refusal :=
  .next (if s.resetLow then s.resetAll false .resetLine else s)

end Sys2Proof.Machine
end

