-- ==== Sys2Proof/Machine/RouteCommands.lean ====
section
/-! DEFINITION. The route commands (chapter 8) and the monitor commands (chapter 9). -/

namespace Sys2Proof.Machine

/-- The lowest-numbered FREE route (R133). -/
def State.freeRoute (s : State) : Option RouteId := (List.finRange 16).find? fun r => (s.route r).isNone

/-- Another route with the same monitor sink is WAITING or RECEIVING (R133). -/
def State.sinkBusy (s : State) (sink : Sink) : Bool :=
  sink != .verify && (List.finRange 16).any fun r => match s.route r with
    | some t => t.sink == sink && t.active
    | none => false

/-- A route as ROUTE_SET makes it (R133). -/
def Route.set (p : RouteParams) : Route where
  item := p.item
  sink := p.sink
  expected := p.expected
  idleLimit := p.idleLimit
  state := .waiting
  next := 0
  crc := crc32Start
  frames := 0
  blocks := 0
  gaps := 0
  badChecks := 0
  discarded := 0
  duplicates := 0
  late := 0
  format := none
  trailer := none
  cause := none

/-- ROUTE_SET (R133), its tests in order; the result is the route number. -/
def routeSet (ps : List Byte) (s : State) : Reaction :=
  match routeParams ps with
  | none => refuse s .badParam
  | some p =>
    match s.freeRoute with
    | none => refuse s .routesFull
    | some r =>
      if (s.routeOf p.item).isSome then refuse s .duplicate
      else if s.sinkBusy p.sink then refuse s .sinkBusy
      else accept (s.setRoute r (some (Route.set p))) (be 1 r.val)

def execRouteSet (s : State) : Host.Outcome State Fault Refusal := command s 0x40 (counted 12 routeSet)

/-- The monitor port of a cleared route's sink told to flush (R134, R153). -/
def State.flushFor (s : State) (r : RouteId) (t : Route) : State :=
  match t.sink.port with
  | some id => s.setMonitor id ((s.monitor id).clearRoute r)
  | none => s

/-- ROUTE_CLEAR (R134): the sink's port flushed, the route-done flag cleared, the route FREE; the result is its state and cause before. An absent cause
is code 0 without a presence byte, as in R178's route record: the model's choice (log 12). -/
def routeClear (ps : List Byte) (s : State) : Reaction :=
  match routeOfNat (field ps 0 1) with
  | none => refuse s .badParam
  | some r =>
    match s.route r with
    | none => refuse s .unknownRoute
    | some t =>
      let s := s.flushFor r t
      let s := { s with events := s.events.unmark (.routeDone r) }
      accept (s.setRoute r none) (be 1 t.state.code ++ be 1 (causeCode t.cause))

def execRouteClear (s : State) : Host.Outcome State Fault Refusal := command s 0x41 (counted 1 routeClear)

/-- ROUTE_READ (R135). -/
def routeRead (ps : List Byte) (s : State) : Reaction :=
  match routeOfNat (field ps 0 1) with
  | none => refuse s .badParam
  | some r => accept s (routeBytes r (s.route r))

def execRouteRead (s : State) : Host.Outcome State Fault Refusal := command s 0x42 (counted 1 routeRead)

/-- MONITOR_SELECT (R149): the port and the source tested first, the lane only when the source is LANE; the result is the source replaced and the frames discarded. -/
def monitorSelect (ps : List Byte) (s : State) : Reaction :=
  match monitorOfCode (field ps 0 1), field ps 1 1 with
  | some id, 0 => done id .none
  | some id, 1 =>
    match laneOfNat (field ps 2 1) with
    | some l => done id (.lane l)
    | none => refuse s .badLane
  | some id, 2 => done id .routed
  | _, _ => refuse s .badParam
where
  /-- The selection carried out. -/
  done (id : MonitorId) (source : Source) : Reaction :=
    let m := s.monitor id
    accept (s.setMonitor id (m.select source)) (m.source.bytes ++ be 2 m.fifo.length)

def execMonitorSelect (s : State) : Host.Outcome State Fault Refusal := command s 0x50 (counted 3 monitorSelect)

/-- MONITOR_STATUS (R155): the port's state, then the underrun counter cleared. -/
def monitorStatus (ps : List Byte) (s : State) : Reaction :=
  match monitorOfCode (field ps 0 1) with
  | none => refuse s .badParam
  | some id => accept (s.setMonitor id { s.monitor id with underruns := 0 }) (s.monitorBytes (s.monitor id))

def execMonitorStatus (s : State) : Host.Outcome State Fault Refusal := command s 0x51 (counted 1 monitorStatus)

end Sys2Proof.Machine
end

