-- ==== Sys2Proof/Machine/Dispatch.lean ====
section
/-! DEFINITION. The meaning of every command: one arm per constructor of Instr. -/

namespace Sys2Proof.Machine

/-- The effect of a command on everything but the queue of commands. -/
def exec (i : Instr) (s : State) : Host.Outcome State Fault Refusal :=
  match i with
  | .probe => Sys2Proof.Machine.execProbe s
  | .deviceReset => Sys2Proof.Machine.execDeviceReset s
  | .deviceResetEffect => Sys2Proof.Machine.execDeviceResetEffect s
  | .linkStats => Sys2Proof.Machine.execLinkStats s
  | .eventRead => Sys2Proof.Machine.execEventRead s
  | .eventMask => Sys2Proof.Machine.execEventMask s
  | .eventForce => Sys2Proof.Machine.execEventForce s
  | .laneSet => Sys2Proof.Machine.execLaneSet s
  | .laneGet => Sys2Proof.Machine.execLaneGet s
  | .laneStatus => Sys2Proof.Machine.execLaneStatus s
  | .laneReset => Sys2Proof.Machine.execLaneReset s
  | .speedSet => Sys2Proof.Machine.execSpeedSet s
  | .inject => Sys2Proof.Machine.execInject s
  | .itemQueue => Sys2Proof.Machine.execItemQueue s
  | .itemWithdraw => Sys2Proof.Machine.execItemWithdraw s
  | .itemStart => Sys2Proof.Machine.execItemStart s
  | .itemEnd => Sys2Proof.Machine.execItemEnd s
  | .itemAbandon => Sys2Proof.Machine.execItemAbandon s
  | .itemMark => Sys2Proof.Machine.execItemMark s
  | .itemRead => Sys2Proof.Machine.execItemRead s
  | .itemRelease => Sys2Proof.Machine.execItemRelease s
  | .tableStatus => Sys2Proof.Machine.execTableStatus s
  | .routeSet => Sys2Proof.Machine.execRouteSet s
  | .routeClear => Sys2Proof.Machine.execRouteClear s
  | .routeRead => Sys2Proof.Machine.execRouteRead s
  | .monitorSelect => Sys2Proof.Machine.execMonitorSelect s
  | .monitorStatus => Sys2Proof.Machine.execMonitorStatus s
  | .powerOn => Sys2Proof.Machine.execPowerOn s
  | .resetLineAssert => Sys2Proof.Machine.execResetLineAssert s
  | .resetLineRelease => Sys2Proof.Machine.execResetLineRelease s
  | .arrivingFrame lane slot => Sys2Proof.Machine.execArrivingFrame lane slot s
  | .injectionCountdownEnd lane slot => Sys2Proof.Machine.execInjectionCountdownEnd lane slot s
  | .detectorWindowEnd lane slot => Sys2Proof.Machine.execDetectorWindowEnd lane slot s
  | .rateWindowEnd lane edges span sinceLoss => Sys2Proof.Machine.execRateWindowEnd lane edges span sinceLoss s
  | .clockLoss lane => Sys2Proof.Machine.execClockLoss lane s
  | .dropoutExpiry lane => Sys2Proof.Machine.execDropoutExpiry lane s
  | .cueLineChange lane low => Sys2Proof.Machine.execCueLineChange lane low s
  | .cueDebounceEnd lane => Sys2Proof.Machine.execCueDebounceEnd lane s
  | .linkSignalAppear => Sys2Proof.Machine.execLinkSignalAppear s
  | .linkSignalLost => Sys2Proof.Machine.execLinkSignalLost s
  | .linkWord word => Sys2Proof.Machine.execLinkWord word s
  | .commandPacket tag code params => Sys2Proof.Machine.execCommandPacket tag code params s
  | .recallPacket packet => Sys2Proof.Machine.execRecallPacket packet s
  | .routeIdleTimeout route => Sys2Proof.Machine.execRouteIdleTimeout route s
  | .gatePacket gate => Sys2Proof.Machine.execGatePacket gate s
  | .malformedPacket cause => Sys2Proof.Machine.execMalformedPacket cause s
  | .holdLimitReached => Sys2Proof.Machine.execHoldLimitReached s
  | .transmitStart => Sys2Proof.Machine.execTransmitStart s
  | .packetSent => Sys2Proof.Machine.execPacketSent s
  | .monitorOutputFrame port => Sys2Proof.Machine.execMonitorOutputFrame port s
  | .unknownCommandCode => Sys2Proof.Machine.execUnknownCommandCode s
  | .holdMillisecond => Sys2Proof.Machine.execHoldMillisecond s

end Sys2Proof.Machine
end

