-- ==== Sys2Proof/Safety.lean ====
section
/-! DEFINITION. What claims are stated in: when an event reaches the units, when a command is about to execute, what an answer is, and the
invariants of the part. -/

namespace Sys2Proof.Machine

/-! ### When something happens -/

/-- No DEVICE_RESET is due and no hold limit has been reached without its LINK_STALL: nothing comes before the next event (R126, R171). -/
def State.settled (s : State) : Bool :=
  s.cmd.reset != .due &&
    match s.tx.hold with
    | some h => h.stalled || s.tx.holdLimit == 0 || decide (h.timer < s.tx.holdLimit)
    | none => true

/-- An event reaches the units as they stand: the RESET line is not held low and nothing else comes first. -/
def State.awake (s : State) : Bool := !s.resetLow && s.settled

/-- The command unit is about to execute the command `c` (R162). -/
def State.ready (s : State) (c : Command) : Bool :=
  s.awake && s.cmd.reset == .idle && s.cmd.waiting.head? == some c

/-- The command at the front of the command queue answered, its reply built with the summary as it stands here (R162, R163). -/
def State.answered (s : State) (c : Command) (status : Status) (result : List Byte := []) : State :=
  { s with cmd := { s.cmd with
    waiting := s.cmd.waiting.drop 1
    done := s.cmd.done ++ [⟨c.tag, c.code, status, result, s.summary⟩] } }

/-- A packet in the link's UP state reaches the units (R159). -/
def State.receiving (s : State) : Bool := s.awake && s.linkUp && s.rx.packet.isNone && s.rx.run == 0

/-! ### The command code table (R176) -/

/-- The rows of the command code table whose parameter count is fixed: the command, its code, its count. ITEM_QUEUE, 0x30, is the other. -/
def commandTable : List (Instr × Byte × Nat) :=
  [(.probe, 0x01, 0), (.deviceReset, 0x02, 0), (.linkStats, 0x03, 0), (.eventRead, 0x10, 11), (.eventMask, 0x11, 4),
    (.eventForce, 0x12, 11), (.laneSet, 0x20, 37), (.laneGet, 0x21, 1), (.laneStatus, 0x22, 1), (.laneReset, 0x23, 1),
    (.speedSet, 0x24, 5), (.inject, 0x25, 3), (.itemWithdraw, 0x31, 4), (.itemStart, 0x32, 4), (.itemEnd, 0x33, 4),
    (.itemAbandon, 0x34, 4), (.itemMark, 0x35, 8), (.itemRead, 0x36, 4), (.itemRelease, 0x37, 4), (.tableStatus, 0x38, 0),
    (.routeSet, 0x40, 12), (.routeClear, 0x41, 1), (.routeRead, 0x42, 1), (.monitorSelect, 0x50, 3), (.monitorStatus, 0x51, 1)]

/-- LANE_SET's second test on its parameter bytes: the selector, and the enumerated fields of each selected group (R93, R176). -/
def laneSetFields (ps : List Byte) : Prop :=
  field ps 1 1 ≤ 2 ∧
    (field ps 1 1 ≠ 1 → field ps 2 1 ≤ 1 ∧ field ps 3 1 ≤ 1 ∧ field ps 4 1 ≤ 5 ∧ (field ps 5 1 = 1 ∨ field ps 5 1 = 2) ∧
      (field ps 8 2 = 256 ∨ field ps 8 2 = 512 ∨ field ps 8 2 = 1024)) ∧
    (field ps 1 1 ≠ 0 → field ps 27 1 ≤ 2)

/-- ITEM_QUEUE's well-formedness on its parameter bytes (R13, R176). -/
def itemQueueFields (ps : List Byte) : Prop :=
  field ps 1 4 ≠ 0 ∧ field ps 5 1 ≤ 4 ∧ field ps 6 1 < 16 ∧ ((field ps 6 1).testBit 2 = true ↔ field ps 7 5 ≠ 0) ∧
    field ps 12 2 ≤ 8192 ∧ field ps 14 1 ≤ 32

/-- ROUTE_SET's first test on its parameter bytes (R133, R176). -/
def routeSetFields (ps : List Byte) : Prop :=
  field ps 0 4 ≠ 0 ∧ field ps 4 1 ≤ 2 ∧ (field ps 5 2 = 0 ∨ (100 ≤ field ps 5 2 ∧ field ps 5 2 ≤ 60000)) ∧ field ps 7 1 ≤ 1

/-! ### Selections of flags (R166, R168, R176) -/

/-- The flag is named by the selection bytes of EVENT_READ or EVENT_FORCE. -/
def selects (ps : List Byte) : Flag → Bool
  | .lane l e => (field ps l.val 1).testBit e.index
  | .device e => (field ps 8 1).testBit e.index
  | .routeDone r => (field ps 9 2).testBit r.val

/-- Every set bit of the selection bytes names an event kind: lane bytes below 32, the device byte below 8. -/
def selectionValid (ps : List Byte) : Prop := (∀ l : LaneId, field ps l.val 1 < 32) ∧ field ps 8 1 < 8

/-! ### The item table (R1, R2, R8) -/

/-- The records a lane holds, queued or open. -/
def Lane.records (x : Lane) : List Nat :=
  x.queue.map Queued.record ++ (x.item.map fun o => o.queued.record).toList

/-- Every record of the table, by the collection that holds it: free, queued, open, closed. -/
def State.records (s : State) : List Nat :=
  s.table.pool ++ s.lanes.toList.flatMap Lane.records ++ s.table.closed.map fun c => c.queued.record

/-- The item numbers of a lane's records. -/
def Lane.numbers (x : Lane) : List Item :=
  x.queue.map Queued.item ++ (x.item.map fun o => o.queued.item).toList

/-- The item numbers of the non-FREE records. -/
def State.numbers (s : State) : List Item :=
  s.lanes.toList.flatMap Lane.numbers ++ s.table.closed.map fun c => c.queued.item

/-- Every one of the 96 records is in exactly one collection (R1). -/
def State.RecordsKept (s : State) : Prop := s.records.Perm (List.range Config.records)

/-- No two non-FREE records have the same item number, and none has the number 0 (R2). -/
def State.NumbersUnique (s : State) : Prop := s.numbers.Nodup ∧ 0 ∉ s.numbers

/-- A lane queue holds at most 16 records, each with a target of at least 1 when LENGTH is among its end conditions, and a lane that is OFF
has no open item and an empty queue (R8, R13). -/
def State.QueuesLawful (s : State) : Prop :=
  ∀ l, (s.lane l).queue.length ≤ Config.queuePlaces ∧ (∀ q ∈ (s.lane l).queue, q.ends.length = true → 1 ≤ q.target) ∧
    ((s.lane l).profile.enabled = false → (s.lane l).item = none ∧ (s.lane l).queue = [])

/-! ### Lanes (R23, R41, R81, R82, R86, R87, R88, R92, R94, R108) -/

/-- Every field of a profile in its stored range (R53, R92, R94). -/
def Profile.Lawful (p : Profile) : Prop :=
  (2 ≤ p.quota ∧ p.quota ≤ 64) ∧ p.history ≤ 8192 ∧ (1 ≤ p.tolerance ∧ p.tolerance ≤ 20) ∧ p.low ≤ p.high ∧ p.high ≤ 8388607 ∧
    (1 ≤ p.ns ∧ p.ns ≤ 6000) ∧ (1 ≤ p.ng ∧ p.ng ≤ 100) ∧ (1 ≤ p.clip ∧ p.clip ≤ 8388608) ∧ (1 ≤ p.runK ∧ p.runK ≤ 16) ∧
    (1 ≤ p.debounce ∧ p.debounce ≤ 255) ∧ p.grace ≤ 5000 ∧ (1 ≤ p.quality ∧ p.quality ≤ 1000) ∧ p.ratio.valid = true

/-- A status word being collected has 1 to 63 bits (R87). -/
def Assembly.Lawful : Assembly → Prop
  | .waiting => True
  | .collecting count _ _ => 1 ≤ count ∧ count ≤ 63

/-- The counts of a port in their ranges, and a port in NO_CLOCK with a measured rate of 0, no word being collected and the motion UNKNOWN. -/
def LanePort.Lawful (p : LanePort) : Prop :=
  p.measured ≤ Config.count32 ∧ p.concealed ≤ Config.count32 ∧ p.rejected ≤ Config.count16 ∧ p.injection ≤ 256 ∧ p.assembly.Lawful ∧
    (p.lock = .noClock → p.measured = 0 ∧ p.assembly = .waiting ∧ p.motion = .unknown)

/-- Every profile and port in range, and every ring within its history length. -/
def State.LanesLawful (s : State) : Prop :=
  ∀ l, (s.lane l).profile.Lawful ∧ (s.lane l).port.Lawful ∧ (s.lane l).ring.length ≤ (s.lane l).profile.history

/-- A lane with an open item runs its dropout timer exactly while its port is not LOCKED (R23, R41). -/
def State.TransferLawful (s : State) : Prop :=
  ∀ l o, (s.lane l).item = some o → (o.dropout = none ↔ (s.lane l).port.lock = .locked)

/-- The arriving slot ends the status word being collected: it brings the 64th bit (R87). -/
def Lane.wordEnds (x : Lane) (slot : Slot) : Bool :=
  match x.port.assembly with
  | .waiting => false
  | .collecting count _ _ => decide (63 ≤ count) && !slot.b.getLsbD 1

/-- A slot's status word bits heard by a port, `p` before and `q` after (R87, R88): its assembly, its rejected-word counter, its declared values and its
motion. `spoils` says that a word of the slot fails parity or is treated as failing. -/
def LanePort.Hears (p q : LanePort) (slot : Slot) (spoils : Bool) : Prop :=
  let bit : BitVec 64 := if slot.a.getLsbD 1 then 1 else 0
  let marker := slot.b.getLsbD 1
  let becomes (assembly : Assembly) (rejects : Nat) : Prop := q.assembly = assembly ∧ q.rejected = min 65535 (p.rejected + rejects)
  let held := q.declared = p.declared ∧ q.motion = p.motion
  (p.assembly = .waiting → held ∧ becomes (if marker then .collecting 1 bit spoils else .waiting) 0) ∧
  ∀ n word spoiled, p.assembly = .collecting n word spoiled →
    (marker = true → held ∧ becomes (.collecting 1 bit spoils) 1) ∧
    (marker = false → n < 63 → held ∧ becomes (.collecting (n + 1) ((word <<< 1) ||| bit) (spoiled || spoils)) 0) ∧
    (marker = false → 63 ≤ n → spoiled = true ∨ spoils = true ∨ goodWord ((word <<< 1) ||| bit) = none → held ∧ becomes .waiting 1) ∧
    (marker = false → 63 ≤ n → spoiled = false → spoils = false → ∀ d m, goodWord ((word <<< 1) ||| bit) = some (d, m) →
      q.declared = some d ∧ q.motion = m ∧ q.assembly = .waiting ∧ q.rejected = p.rejected)

/-! ### The level detector (R99 to R106) -/

/-- One channel's overload run, `run` before and `next` after a taken sample of magnitude `mag`, and the report that the sample brings, by the settings
of the window `w` that it lies in (R103, R105). `counter` is the frame's counter value. -/
def Window.StepsRun (w : Window) (counter : FrameCount) (mag : Nat) (run next : Option OverloadRun) (report : RunReport) : Prop :=
  let r := run.getD ⟨0, counter, false⟩
  (mag < w.clip → next = none ∧ report = .none) ∧
  (w.clip ≤ mag → r.found = true → next = some ⟨r.count + 1, r.first, true⟩ ∧ report = .further) ∧
  (w.clip ≤ mag → r.found = false → w.runK ≤ r.count + 1 →
    next = some ⟨r.count + 1, r.first, true⟩ ∧ report = .found ⟨r.count + 1, r.first, true⟩) ∧
  (w.clip ≤ mag → r.found = false → r.count + 1 < w.runK → next = some ⟨r.count + 1, r.first, false⟩ ∧ report = .none)

/-- What a taken frame makes of a detector, `d` before and `e` after, and what the detector hands over with it (R99 to R103, R105, R106): the frame joins the
window in progress, or begins one with the profile's settings; each channel in use steps its overload run; a window that is not complete changes
neither the state nor the run count; and a complete one is judged by R101's table. -/
def Detector.Takes (d e : Detector) (p : Profile) (use : InUse) (f : Frame) (report : DetectorReport) : Prop :=
  let two := use.channels = .two
  let w : Window := d.window.getD ⟨p.low, p.high, p.ns, p.ng, p.clip, p.runK, f.counter, 0, 0⟩
  let magA := f.a.toInt.natAbs
  let magB := f.b.toInt.natAbs
  let peak := max w.peak (if two then max magA magB else magA)
  let argues := if d.state = .silence then w.high ≤ peak else peak < w.low
  let needed := if d.state = .silence then w.ng else w.ns
  let start := if d.runCount = 0 then w.first else d.runStart
  w.StepsRun f.counter magA d.runA e.runA report.reportA ∧ report.runA = e.runA ∧
  (two → w.StepsRun f.counter magB d.runB e.runB report.reportB) ∧ (¬two → e.runB = none ∧ report.reportB = .none) ∧ report.runB = e.runB ∧
  (w.frames + 1 < rateHz use.rate / 100 → e.window = some { w with frames := w.frames + 1, peak := peak } ∧ e.state = d.state ∧
    e.runCount = d.runCount ∧ e.runStart = d.runStart ∧ report.declared = none) ∧
  (rateHz use.rate / 100 ≤ w.frames + 1 → e.window = none ∧
    (¬argues → e.state = d.state ∧ e.runCount = 0 ∧ report.declared = none) ∧
    (argues → d.runCount + 1 < needed → e.state = d.state ∧ e.runCount = d.runCount + 1 ∧ e.runStart = start ∧ report.declared = none) ∧
    (argues → needed ≤ d.runCount + 1 → e.runCount = 0 ∧
      (d.state = .silence → e.state = .signal ∧ report.declared = some .signal) ∧
      (d.state = .signal → e.state = .silence ∧ report.declared = some (.silence start))))

/-! ### Marks (R67 to R69) -/

/-- From `r` to `r'`, the mark `m` has been raised (R68): stored behind every mark whose offset is not greater, or dropped and counted. `ref` is
what the accounting state keeps of it. -/
def Recording.MarkRaised (r r' : Recording) (m : Mark) (ref : MarkRef) : Prop :=
  (r.marks.length < 32 → ref = .stored m.serial ∧ r'.droppedMarks = r.droppedMarks ∧ r'.flags.marksTruncated = r.flags.marksTruncated ∧
    ∃ before behind, r.marks = before ++ behind ∧ r'.marks = before ++ m :: behind ∧ (∀ x ∈ before, x.offset ≤ m.offset) ∧
      ∀ x, behind.head? = some x → m.offset < x.offset) ∧
  (32 ≤ r.marks.length → ref = .dropped m ∧ r'.marks = r.marks ∧ r'.droppedMarks = min 65535 (r.droppedMarks + 1) ∧
    r'.flags.marksTruncated = true)

/-- From `r` to `r'`, no mark has been raised and none has grown. -/
def Recording.MarksSame (r r' : Recording) : Prop :=
  r'.marks = r.marks ∧ r'.droppedMarks = r.droppedMarks ∧ r'.flags.marksTruncated = r.flags.marksTruncated

/-- From `r` to `r'`, the mark that `ref` names has grown by `f`: in the list when it is stored, in the accounting state alone when it was dropped (R69). -/
def Recording.MarkGrown (r r' : Recording) (ref ref' : MarkRef) (f : Mark → Mark) : Prop :=
  r'.droppedMarks = r.droppedMarks ∧ r'.flags.marksTruncated = r.flags.marksTruncated ∧
    match ref with
    | .stored k => ref' = .stored k ∧ r'.marks = r.marks.map fun m => if m.serial = k then f m else m
    | .dropped m => ref' = .dropped (f m) ∧ r'.marks = r.marks

/-! ### A frame of the open item (R33, R34, R69 to R73, R115, R116, R118) -/

/-- What a frame makes of the OVERRUN and CONCEAL marks of the item `o`, whose record is `r` before and `r'` after (R70, R73): first its loss, then its
concealed samples. `acc` is the accounting state after it. -/
def OpenItem.FrameMarks (o : OpenItem) (r' : Recording) (acc : Accounting) (f : Frame) (placed : Bool) : Prop :=
  let r := o.record
  let n := r.length
  ∃ mid : Recording,
    (placed = true → r.MarksSame mid ∧ acc.overrun = none) ∧
    (placed = false → o.accounts.overrun = none → ∃ ref, acc.overrun = some ref ∧
      r.MarkRaised mid ⟨.overrun, n, r.prog n, 1, false, false, r.marks.length⟩ ref) ∧
    (placed = false → ∀ ref, o.accounts.overrun = some ref → ∃ ref', acc.overrun = some ref' ∧
      r.MarkGrown mid ref ref' fun m => { m with extent := m.extent + 1 }) ∧
    (f.concA = false → f.concB = false → mid.MarksSame r' ∧ acc.conceal = o.accounts.conceal) ∧
    (f.concA = true ∨ f.concB = true →
      ((∀ c, o.accounts.conceal = some c → rateHz r.rate / 100 < n - c.last) → ∃ ref, acc.conceal = some ⟨ref, n⟩ ∧
        mid.MarkRaised r' ⟨.conceal, n, r.prog n, 1, f.concA, f.concB, mid.marks.length⟩ ref) ∧
      ∀ c, o.accounts.conceal = some c → n - c.last ≤ rateHz r.rate / 100 → ∃ ref, acc.conceal = some ⟨ref, n⟩ ∧
        mid.MarkGrown r' c.mark ref fun m => { m with extent := n - m.offset + 1, chA := m.chA || f.concA, chB := m.chB || f.concB }) ∧
    acc.overload = o.accounts.overload ∧ acc.silence = o.accounts.silence

/-- From `s` to `t`, the open item of lane `l`, `o` before and `p` after, has taken the frame `f`, pre-roll or live (R33, R34, R69): it has the next
offset; it stands in the current buffer, which a request may have granted, and a buffer that it fills is a block at the tail of the send queue; or it is lost
and in the pending gap count, the lane waiting, and OVERRUN is set at the first of a run; and the digest, the counts, the peaks, the flags and the
OVERRUN and CONCEAL marks follow. Nothing else moves. -/
def State.ItemTakes (s t : State) (l : LaneId) (f : Frame) (o p : OpenItem) : Prop :=
  let r := o.record
  let placed := o.buffer.isSome || (!s.memory.waiting.contains l && s.canGrant l)
  let b : Buffer := o.buffer.getD ⟨0, 0, []⟩
  let bytes := sampleBytes f.a ++ if r.channels = .two then sampleBytes f.b else []
  let filled : Buffer := ⟨b.frames + 1, if b.frames = 0 then o.gap else b.gap, b.payload ++ bytes⟩
  let concealed := f.concA || f.concB
  t = ({ s with memory := t.memory, events := t.events } : State).setLane l { s.lane l with item := some p } ∧
  p = { o with buffer := p.buffer, gap := p.gap, accounts := p.accounts, record := p.record } ∧
  p.record = { r with
    length := r.length + 1
    lost := if placed then r.lost else r.lost + 1
    crc := if placed then crc32 r.crc bytes else r.crc
    concealed := if concealed then min 4294967295 (r.concealed + 1) else r.concealed
    peakA := max r.peakA f.a.toInt.natAbs
    peakB := if r.channels = .two then max r.peakB f.b.toInt.natAbs else r.peakB
    blocks := p.record.blocks
    marks := p.record.marks
    droppedMarks := p.record.droppedMarks
    flags := { r.flags with
      overrun := r.flags.overrun || !placed
      concealed := r.flags.concealed || concealed
      marksTruncated := p.record.flags.marksTruncated } } ∧
  (placed = true → t.memory.waiting = s.memory.waiting ∧ p.gap = (if b.frames = 0 then 0 else o.gap) ∧
    (filled.frames < o.blockSize → p.buffer = some filled ∧ p.record.blocks = r.blocks ∧ t.memory.queue = s.memory.queue) ∧
    (o.blockSize ≤ filled.frames → p.buffer = none ∧ p.record.blocks = r.blocks + 1 ∧ t.memory.queue = s.memory.queue ++
      [⟨o.queued.item, l, r.blocks, r.blocks == 0, false, filled.frames, r.channels, r.rate, filled.gap, filled.payload, none, none⟩])) ∧
  (placed = false → p.buffer = none ∧ p.gap = o.gap + 1 ∧ p.record.blocks = r.blocks ∧ t.memory.queue = s.memory.queue ∧
    t.memory.waiting = if s.memory.waiting.contains l then s.memory.waiting else s.memory.waiting ++ [l]) ∧
  t.events = (if placed = false ∧ o.accounts.overrun = none then s.raise (.lane l .overrun) else s).events ∧
  o.FrameMarks p.record p.accounts f placed

/-- The frames `fs`, the first first, have been taken one after the other by the open item of lane `l` (R33). -/
def State.ItemPushes (l : LaneId) : List Frame → State → OpenItem → State → OpenItem → Prop
  | [], s, o, t, p => t = s ∧ p = o
  | f :: fs, s, o, t, p => ∃ u m, s.ItemTakes u l f o m ∧ State.ItemPushes l fs u m t p

/-- From `o` to `p`, one channel's overload run has been taken into the item at the frame just counted in its length (R71, R106): its first offset is 0 when
its first clipped sample lies before the item; the run is counted; and it merges into the OVERLOAD mark whose run lies no more than 10 windows before it,
or raises a mark of its own. `counter` is the frame's counter value. -/
def OpenItem.RunTaken (o p : OpenItem) (counter : FrameCount) (run : OverloadRun) (inA : Bool) : Prop :=
  let n := o.record.length - 1
  let first := n - (counter - run.first).toNat
  let samples := min ((counter - run.first).toNat + 1) (n + 1)
  p.record.overloads = min 4294967295 (o.record.overloads + 1) ∧
    ((∀ c, o.accounts.overload = some c → c.last + 10 * (rateHz o.record.rate / 100) < first) → ∃ ref, p.accounts.overload = some ⟨ref, n⟩ ∧
      o.record.MarkRaised p.record ⟨.overload, first, o.record.prog first, samples, inA, !inA, o.record.marks.length⟩ ref) ∧
    ∀ c, o.accounts.overload = some c → first ≤ c.last + 10 * (rateHz o.record.rate / 100) → ∃ ref, p.accounts.overload = some ⟨ref, n⟩ ∧
      o.record.MarkGrown p.record c.mark ref fun m =>
        { m with extent := min 4294967295 (m.extent + samples), chA := m.chA || inA, chB := m.chB || !inA }

/-- What one channel's overload report at a live frame makes of the item, `o` before and `p` after, the frame counted in its length (R71, R106). A run found
in progress at the item's first live frame, or found at a later one, is taken; a further clipped sample grows the mark of its run. -/
def OpenItem.OverloadAccounted (o p : OpenItem) (counter : FrameCount) (report : RunReport) (inProgress : Option OverloadRun) (inA : Bool) : Prop :=
  let n := o.record.length - 1
  let nothing := p = o
  p = { o with
    accounts := { o.accounts with overload := p.accounts.overload }
    record := { o.record with
      overloads := p.record.overloads
      marks := p.record.marks
      droppedMarks := p.record.droppedMarks
      flags := { o.record.flags with marksTruncated := p.record.flags.marksTruncated } } } ∧
  (o.live = false → (∀ run, inProgress = some run → (run.found = true → o.RunTaken p counter run inA) ∧ (run.found = false → nothing)) ∧
    (inProgress = none → nothing)) ∧
  (o.live = true → (∀ run, report = .found run → o.RunTaken p counter run inA) ∧ (report = .none → nothing) ∧
    (report = .further → (o.accounts.overload = none → nothing) ∧ ∀ c, o.accounts.overload = some c →
      p.record.overloads = o.record.overloads ∧ ∃ ref, p.accounts.overload = some ⟨ref, max c.last n⟩ ∧
        o.record.MarkGrown p.record c.mark ref fun m => { m with extent := min 4294967295 (m.extent + 1) }))

/-- What a live frame and the declaration that it completes make of the SILENCE mark of the item, `o` before and `p` after, the frame counted in its length
(R72): an open mark grows to the length; a declaration of SIGNAL ends it; and a declaration of SILENCE raises one at the silence start, or at 0, unless SILENCE
is among the end conditions. `counter` is the frame's counter value. -/
def OpenItem.SilenceAccounted (o p : OpenItem) (counter : FrameCount) (declared : Option Declaration) : Prop :=
  let length := o.record.length
  ∃ m : OpenItem,
    m = { o with
      accounts := { o.accounts with silence := m.accounts.silence }
      record := { o.record with marks := m.record.marks } } ∧
    (o.accounts.silence = none → m = o) ∧
    (∀ ref, o.accounts.silence = some ref → ∃ ref', m.accounts.silence = some ref' ∧
      o.record.MarkGrown m.record ref ref' fun x => { x with extent := length - x.offset }) ∧
    (o.queued.ends.silence = true ∨ declared = none → p = m) ∧
    (o.queued.ends.silence = false → declared = some .signal → p = { m with accounts := { m.accounts with silence := none } }) ∧
    ∀ start, o.queued.ends.silence = false → declared = some (.silence start) →
      let first := length - ((counter - start).toNat + 1)
      p = { m with
        accounts := { m.accounts with silence := p.accounts.silence }
        record := { m.record with
          marks := p.record.marks
          droppedMarks := p.record.droppedMarks
          flags := { m.record.flags with marksTruncated := p.record.flags.marksTruncated } } } ∧
      ∃ ref, p.accounts.silence = some ref ∧
        m.record.MarkRaised p.record ⟨.silence, first, m.record.prog first, length - first, false, false, m.record.marks.length⟩ ref

/-! ### The opening and the close of an item (R30, R31, R32, R39, R40) -/

/-- The number of pre-roll frames that the head `q` takes now (R31). -/
def Lane.preroll (x : Lane) (q : Queued) : Nat := min q.preroll x.eligibleFrames.length

/-- The programme time at which an item opening now with so many pre-roll frames begins its live part (R58, R60). -/
def Lane.prerollTime (x : Lane) (n : Nat) : Nat := segmentTime (rateHz x.inUse.rate) x.profile.ratio n

/-- From `s` to `t`, lane `l`'s head `q` has opened with the pre-roll `frames`: what R32 gives the record, the queue behind the head in its order, the item
table otherwise as it was, and ITEM_OPENED set. In full: the record begins empty in the open slot and asks for its first buffer; the pre-roll is pushed, oldest
first (R33); the programme length is that of the pre-roll; and ITEM_OPENED is raised with the item number. -/
def State.ItemOpensWith (s t : State) (l : LaneId) (q : Queued) (frames : List Frame) : Prop :=
  let x := s.lane l
  let n := frames.length
  let waits := s.memory.waiting.contains l
  (t.table = s.table ∧ (t.lane l).queue = x.queue.drop 1 ∧ (t.lane l).profile = x.profile ∧ (t.lane l).port = x.port ∧
    t.events.isSet (.lane l .itemOpened) = true ∧
    ∃ o, (t.lane l).item = some o ∧ o.queued = q ∧ o.record.deck = x.inUse.deck ∧ o.record.rate = x.inUse.rate ∧
      o.record.channels = x.inUse.channels ∧ o.record.length = n ∧ o.record.start = x.port.counter - BitVec.ofNat 48 n ∧
      o.record.programme = x.prerollTime n ∧ o.record.segments = [⟨0, x.profile.ratio, 0⟩] ∧
      o.pendingSpeed = none ∧ o.dropout = none ∧ o.live = false) ∧
  ∃ (v : State) (p : OpenItem),
    let o : OpenItem := ⟨q, ⟨x.inUse.deck, x.inUse.rate, x.inUse.channels, x.port.counter - BitVec.ofNat 48 n, 0, 0, [⟨0, x.profile.ratio, 0⟩], [],
        0, 0, 0, 0, 0, 0, 0, 0xFFFFFFFF#32, ⟨false, false, false, false, false⟩⟩,
      x.profile.blockSize.frames, if !waits && s.canGrant l then some ⟨0, 0, []⟩ else none, 0, none, none, false, ⟨none, none, none, none⟩⟩
    let u : State := ({ s with memory := { s.memory with
        waiting := if waits || s.canGrant l then s.memory.waiting else s.memory.waiting ++ [l] } } : State).setLane l
      { x with queue := x.queue.drop 1, item := some o }
    State.ItemPushes l frames u o v p ∧
      t = (v.setLane l { v.lane l with item := some { p with record := { p.record with programme := p.record.prog p.record.length } } }).raise
        (.lane l .itemOpened) q.item

/-- From `s` to `t`, lane `l`'s head `q` has opened at the boundary after the last frame taken, with the last of the eligible frames that it asks for (R31). -/
def State.ItemOpens (s t : State) (l : LaneId) (q : Queued) : Prop :=
  s.ItemOpensWith t l q ((s.lane l).eligibleFrames.drop ((s.lane l).eligibleFrames.length - q.preroll))

/-- From `s` to `t`, what concerns lane `l` alone has moved: the link, the routes and the free pool are as they were, the closed list and the
send queue have only grown, the latter by blocks of the lane, no flag but the lane's has changed, and another lane is as it was, or was waiting
for a buffer and has been granted one. The command queue and the monitor ports are left open. -/
def State.Aside (s t : State) (l : LaneId) : Prop :=
  t.tx = s.tx ∧ t.rx = s.rx ∧ t.routes = s.routes ∧ t.resetLow = s.resetLow ∧ t.freeDraws = s.freeDraws ∧ t.pending = s.pending ∧
    t.table.pool = s.table.pool ∧ s.table.closed <+: t.table.closed ∧
    (∃ blocks, t.memory.queue = s.memory.queue ++ blocks ∧ ∀ b ∈ blocks, b.lane = l) ∧
    t.events.mask = s.events.mask ∧ t.events.cause = s.events.cause ∧
    (∀ f, (∀ e, f ≠ .lane l e) → t.events.isSet f = s.events.isSet f) ∧
    ∀ k, k ≠ l → t.lane k = s.lane k ∨ ∃ o, (s.lane k).item = some o ∧ k ∈ s.memory.waiting ∧
      t.lane k = { s.lane k with item := some { o with buffer := some ⟨0, 0, []⟩ } }

/-- The block `b` is the LAST entry of lane `l`'s item `o`, which closes with a reason (R119): it holds the frames of the current buffer with the gap count
that the first of them recorded, or stands in the record's trailer place with the pending gap count (R118, R120); and its trailer has the final values. -/
def OpenItem.LastEntry (o : OpenItem) (l : LaneId) (reason : CloseReason) (b : Block) : Prop :=
  let flags : ItemFlags := { o.record.flags with abandoned := o.record.flags.abandoned || reason == .abandoned }
  let held : Buffer := o.buffer.getD ⟨0, 0, []⟩
  b.item = o.queued.item ∧ b.lane = l ∧ b.seq = o.record.blocks ∧ b.first = (o.record.blocks == 0) ∧ b.last = true ∧
    b.channels = o.record.channels ∧ b.rate = o.record.rate ∧ b.frames = held.frames ∧
    b.gap = (if held.frames = 0 then o.gap else held.gap) ∧ b.payload = (if held.frames = 0 then [] else held.payload) ∧
    b.place = (if held.frames = 0 then some o.queued.record else none) ∧
    ∃ tr, b.trailer = some tr ∧ tr.length = BitVec.ofNat 40 o.record.length ∧ tr.programme = BitVec.ofNat 48 o.record.programme ∧
      tr.lost = BitVec.ofNat 32 o.record.lost ∧ tr.concealed = BitVec.ofNat 32 o.record.concealed ∧
      tr.digest = o.record.crc ^^^ 0xFFFFFFFF#32 ∧ tr.reason = BitVec.ofNat 8 reason.code ∧
      tr.flags = 0b000#3 ++ BitVec.ofBool flags.abandoned ++ BitVec.ofBool flags.marksTruncated ++ BitVec.ofBool flags.overrun ++
        BitVec.ofBool flags.concealed ++ BitVec.ofBool flags.discontinuous ∧
      tr.segments = BitVec.ofNat 8 o.record.segments.length

/-- From `s` to `t`, the close of lane `l`'s item `o` has moved the waiting-lane list: lane `l` has left it where it had no current buffer; a buffer that
holds frames goes with its block and the list stays; and an empty buffer is freed and granted (R117, R119): no lane joins the list, a lane that leaves
it has an empty current buffer, and none that stays could be granted one. -/
def State.WaitingAfterClose (s t : State) (l : LaneId) (o : OpenItem) : Prop :=
  (o.buffer = none → t.memory.waiting = s.memory.waiting.filter fun k => k != l) ∧
  ∀ b, o.buffer = some b →
    (b.frames ≠ 0 → t.memory.waiting = s.memory.waiting) ∧
    (b.frames = 0 → t.memory.waiting.Sublist s.memory.waiting ∧
      (∀ k q, k ≠ l → k ∈ s.memory.waiting → k ∉ t.memory.waiting → (s.lane k).item = some q →
        t.lane k = { s.lane k with item := some { q with buffer := some ⟨0, 0, []⟩ } }) ∧
      (l ∉ s.memory.waiting → ∀ k ∈ t.memory.waiting, t.canGrant k = false))

/-- From `s` to `t`, the open item `o` of lane `l` has closed with a reason (R39): its record, final, at the tail of the closed list; its LAST
entry at the tail of the send queue, and the waiting-lane list as R119 leaves it; the open slot empty, the eligibility start moved to the item's
last frame (R40), or absent where the ring does not hold that frame (log 19), and the next head armed against the sources as they stand in `s` (but not at
LANE_RESET); ITEM_CLOSED raised with the item number. The rest of the lane is as it was, and what does not concern the lane is left alone. -/
def State.ItemCloses (s t : State) (l : LaneId) (o : OpenItem) (reason : CloseReason) : Prop :=
  let x := s.lane l
  let flags : ItemFlags := { o.record.flags with abandoned := o.record.flags.abandoned || reason == .abandoned }
  let last := o.record.start + BitVec.ofNat 48 o.record.length - 1
  t.lane l = { x with
    item := none
    eligible := if x.ring.any fun f => f.counter == last then some last else none
    baseline := if reason = .laneReset ∨ x.queue = [] then x.baseline else some ⟨x.cue.level, x.detector.state, x.port.motion⟩ } ∧
    t.table.pool = s.table.pool ∧
    t.table.closed = s.table.closed ++ [⟨o.queued, l, { o.record with blocks := o.record.blocks + 1, flags := flags }, reason⟩] ∧
    (∃ b, t.memory.queue = s.memory.queue ++ [b] ∧ o.LastEntry l reason b) ∧ s.WaitingAfterClose t l o ∧
    t.events = (s.raise (.lane l .itemClosed) o.queued.item).events ∧ s.Aside t l ∧ t.cmd = s.cmd ∧ t.monA = s.monA ∧ t.monB = s.monB

/-- From `s` to `t`, lane `l`'s head `q` has opened with the pre-roll `frames`, and has closed at its opening instant, with LENGTH, when the pre-roll alone
reaches its target (R35). -/
def State.HeadStarts (s t : State) (l : LaneId) (q : Queued) (frames : List Frame) : Prop :=
  let reached := q.ends.length = true ∧ q.target ≤ (s.lane l).prerollTime frames.length
  (¬reached → s.ItemOpensWith t l q frames) ∧
    (reached → ∃ u p, s.ItemOpensWith u l q frames ∧ (u.lane l).item = some p ∧ u.ItemCloses t l p .length)

/-! ### Items (R54, R56, R62, R68) -/

/-- At most 32 marks, sorted by item offset, and each under a serial of its own below their number (R68, R69). -/
def Recording.MarksSorted (r : Recording) : Prop :=
  r.marks.length ≤ Config.markPlaces ∧ (r.marks.Pairwise fun a b => a.offset ≤ b.offset) ∧
    (∀ m ∈ r.marks, m.serial < r.marks.length) ∧ (r.marks.map Mark.serial).Nodup

/-- A segment that follows another begins later, at the programme time that the other gives its start (R54, R56). -/
def Segment.Follows (fs : Nat) (a b : Segment) : Prop :=
  a.start < b.start ∧ b.programme = a.programme + segmentTime fs a.ratio (b.start - a.start)

/-- One to eight speed segments, the first at offset 0 and programme time 0, each following the one before it, none beyond the length (R54, R56). -/
def Recording.SegmentsLawful (r : Recording) : Prop :=
  r.segments.length ≤ Config.segmentPlaces ∧ (∃ g, r.segments.head? = some g ∧ g.start = 0 ∧ g.programme = 0) ∧
    r.segments.IsChain (Segment.Follows (rateHz r.rate)) ∧ ∀ g ∈ r.segments, g.start ≤ r.length

/-- The marks and the segments of a record are in order. -/
def Recording.Lawful (r : Recording) : Prop := r.MarksSorted ∧ r.SegmentsLawful

/-- The records of the OPEN and CLOSED items are in order, and an open item with a pending speed change has room for its segment (R62). -/
def State.ItemsLawful (s : State) : Prop :=
  (∀ l o, (s.lane l).item = some o →
    o.record.Lawful ∧ (o.pendingSpeed.isSome → o.record.segments.length < Config.segmentPlaces)) ∧
  ∀ c ∈ s.table.closed, c.record.Lawful

/-! ### Buffers (R113, R116) -/

/-- The lanes hold no more than the 192 buffers; the waiting-lane list holds a lane at most once, and only a lane with an open item
and no current buffer. -/
def State.BuffersLawful (s : State) : Prop :=
  ((List.finRange 8).map s.held).sum ≤ Config.buffers ∧ s.memory.waiting.Nodup ∧
    ∀ l ∈ s.memory.waiting, (s.lane l).item.isSome ∧ (s.lane l).hasBuffer = false

/-! ### The link and the command queue (R127, R157, R158, R161, R165) -/

/-- What a notice is of: its flag, or the STATUS notice. -/
def Notice.flag : Notice → Option Flag
  | .event f _ => some f
  | .status => none

/-- From `s` to `t`, the link has left UP for DOWN (R126, R128, R158, R159, R171): a block in flight is back at the head of the send queue and any
other packet in flight is cut off, a packet being received is counted as malformed, no notice waits, a hold begins or goes on on a link that
has been UP, and a DEVICE_RESET whose reply was awaited is due. -/
def State.LinkLeaves (s t : State) : Prop :=
  t = { s with
    rx := { s.rx with state := .down, packet := none, run := t.rx.run }
    memory := { s.memory with queue := (match s.tx.inFlight with
      | some ⟨.block b, _⟩ => b :: s.memory.queue
      | _ => s.memory.queue) }
    tx := { s.tx with
      inFlight := none
      hold := if s.tx.beenUp = true then some (s.tx.hold.getD ⟨0, false⟩) else none
      stats := { s.tx.stats with
        malformed := if s.rx.packet.isSome = true then min 4294967295 (s.tx.stats.malformed + 1) else s.tx.stats.malformed } }
    events := { s.events with notices := [] }
    cmd := { s.cmd with reset := if s.cmd.reset = .replyAwaited then .due else s.cmd.reset } }

/-- The data word of a byte: prefix 01, then the byte (R174). -/
def dataWord (b : Byte) : BitVec 10 := 0b01#2 ++ b

/-- The words of a packet on the link: the start word, its data bytes, the end word (R174). -/
def packetWords (bytes : List Byte) : List (BitVec 10) := [0x25B#10] ++ bytes.map dataWord ++ [0x25D#10]

/-- The received words `ws`, one LINK_WORD after the other. -/
def receiveWords (ws : List (BitVec 10)) (s : State) : Host.Outcome State Fault Refusal :=
  ws.foldl (fun o w => match o with
    | .next t => exec (.linkWord w) t
    | stop => stop) (.next s)

/-- At most 4 commands are queued; the alignment count and the run count are in range; the notice list holds at most one notice of a flag and at most one
STATUS notice; a link that is UP has been UP; and while the link is not UP nothing is in flight, nothing is being received and no notice waits. -/
def State.LinkLawful (s : State) : Prop :=
  s.cmd.done.length + s.cmd.waiting.length ≤ Config.commandPlaces ∧
    s.rx.align ≤ 64 ∧ (s.rx.state = .aligning → s.rx.align < 64) ∧ s.rx.run ≤ 8 ∧ (s.rx.state = .up → s.rx.run < 8) ∧
    (s.events.notices.map Notice.flag).Nodup ∧ (s.rx.state = .up → s.tx.beenUp = true) ∧
    (s.rx.state ≠ .up → s.tx.inFlight = none ∧ s.rx.packet = none ∧ s.events.notices = [])

end Sys2Proof.Machine

/-- The block record of a RECALL packet is well formed: its rate code, channels, sequence and frame count in range, and with LAST a trailer with a
close reason, a segment count and a lost frames count in range (R138). -/
def Sys2Proof.RecallPacket.Consistent (p : Sys2Proof.RecallPacket) : Prop :=
  p.rate.toNat ≤ 5 ∧ (p.channels = 1 ∨ p.channels = 2) ∧ p.seq.toNat ≤ 4294967294 ∧
    ((1 ≤ p.frames.toNat ∧ p.frames.toNat ≤ 1024) ∨ (p.frames = 0 ∧ p.flags.getLsbD 1 = true)) ∧
    (p.flags.getLsbD 1 = true → ∃ t, p.trailer = some t ∧ 1 ≤ t.reason.toNat ∧ t.reason.toNat ≤ 10 ∧ 1 ≤ t.segments.toNat ∧
      t.segments.toNat ≤ 8 ∧ t.lost.toNat ≤ t.length.toNat)

namespace Sys2Proof.Machine

/-! ### Recall and monitors (R131, R136, R143, R149, R151, R152, R154) -/

/-- A VERIFIED route has met no fault, has the frames its trailer calls for, and a digest equal to the trailer's and to the one expected, if any (R142, R143). -/
def Route.Vouched (t : Route) : Prop :=
  t.gaps = 0 ∧ t.cause = none ∧ ∃ tr, t.trailer = some tr ∧ t.frames = tr.length.toNat - tr.lost.toNat ∧
    t.crc ^^^ 0xFFFFFFFF#32 = tr.digest ∧ ∀ d, t.expected = some d → t.crc ^^^ 0xFFFFFFFF#32 = d

/-- No two routes have the same item number and none has the number 0; a WAITING route has accepted nothing; a VERIFIED route is vouched for. -/
def State.RoutesLawful (s : State) : Prop :=
  (∀ r q t u, s.route r = some t → s.route q = some u → t.item = u.item → r = q) ∧
    ∀ r t, s.route r = some t → t.item ≠ 0 ∧ (t.state = .waiting → t.frames = 0 ∧ t.blocks = 0 ∧ t.format = none) ∧
      (t.state = .verified → t.Vouched)

/-- What an append of frames of route `r` makes of a ROUTED port, `m` before and `n` after (R151, R152, R154): the frames behind those of the same route, or
after a flush as the first of the route; 2048 frames start the playing and 6144 bring the pace to HOLD. An append of nothing changes nothing. -/
def Monitor.Appends (m n : Monitor) (r : RouteId) (format : Format) (frames : List Pair) : Prop :=
  let same := m.ref.map RouteRef.route = some r
  (frames = [] → n = m) ∧
  (frames ≠ [] → n = { m with
      fifo := (if same then m.fifo else []) ++ frames
      ref := if same then m.ref else some ⟨r, format, false⟩
      pace := n.pace
      state := n.state } ∧
    n.pace = (if 6144 ≤ n.fifo.length then .hold else if same then m.pace else .go) ∧
    (same → n.state = if (m.state = .filling ∨ m.state = .starved) ∧ 2048 ≤ n.fifo.length then .playing else m.state) ∧
    (¬same → n.state = if 2048 ≤ n.fifo.length then .playing else .filling))

/-- What the word that route `r` has reached a final state makes of a port, `m` before and `n` after (R152). -/
def Monitor.ToldFinal (m n : Monitor) (r : RouteId) : Prop :=
  (m.source ≠ .routed ∨ m.ref.map RouteRef.route ≠ some r → n = m) ∧
  ∀ f, m.source = .routed → m.ref = some f → f.route = r →
    (m.state = .filling ∨ m.state = .starved ∧ m.fifo ≠ [] → n = { m with ref := some { f with final := true }, state := .playing }) ∧
    (m.state = .starved → m.fifo = [] → n = { m with ref := none, state := .silent }) ∧
    (m.state ≠ .filling → m.state ≠ .starved → n = { m with ref := some { f with final := true } })

/-- A monitor port in order: the FIFO within its size and empty unless the source is ROUTED, its state one that its source allows, a reference
exactly while the state is FILLING, PLAYING or STARVED, and the pace state within the bounds of R154. -/
def Monitor.Lawful (m : Monitor) : Prop :=
  m.fifo.length ≤ Config.fifoFrames ∧ (m.pace = .hold → 2048 < m.fifo.length) ∧ (6144 ≤ m.fifo.length → m.pace = .hold) ∧
    (m.ref = none → m.fifo = []) ∧
    match m.source with
    | .none => m.state = .silent ∧ m.ref = none
    | .lane _ => m.state = .live ∧ m.ref = none
    | .routed =>
      match m.state with
      | .silent => m.ref = none
      | .live => False
      | .filling => m.fifo.length < 2048 ∧ m.fifo ≠ [] ∧ ∃ f, m.ref = some f ∧ f.final = false
      | .playing => m.fifo ≠ [] ∧ m.ref.isSome
      | .starved => m.fifo.length < 2048 ∧ ∃ f, m.ref = some f ∧ f.final = false

/-- Both monitor ports in order. -/
def State.MonitorsLawful (s : State) : Prop := s.monA.Lawful ∧ s.monB.Lawful

/-! ### Resets -/

/-- A lane in its reset state, its cue line's input level and a fresh debounce of it aside (R52, R90, R97, R112). -/
def Lane.AtReset (x : Lane) (p : Profile) : Prop :=
  x.profile = p ∧ x.port = LanePort.reset ∧ x.cue.level = false ∧ x.detector = Detector.reset ∧ x.ring = [] ∧ x.eligible = none ∧
    x.queue = [] ∧ x.item = none ∧ x.baseline = none

/-- The item table, block memory, lanes, routes and monitor ports in their reset state, and the command queue empty (R21, R52, R98, R112, R129, R147, R156, R172). -/
def State.UnitsReset (s : State) : Prop :=
  s.table = ItemTable.reset ∧ s.memory = ⟨[], []⟩ ∧ (∀ l, (s.lane l).AtReset Profile.default) ∧ (∀ r, s.route r = none) ∧
    s.monA = Monitor.reset ∧ s.monB = Monitor.reset ∧ s.cmd = ⟨[], [], .idle⟩ ∧ s.tx.inFlight = none

end Sys2Proof.Machine
end

