-- ==== Sys2Proof/WellFormed.lean ====
section
/-! DEFINITION. Which commands the outside of the part can send: the ranges of operands that the spec gives. -/

namespace Sys2Proof

/-- The payload of a RECALL packet is as long as its header declares, and the trailer is present when LAST, bit 1 of the block flags, is set (R159, R175). -/
def RecallPacket.wf (p : RecallPacket) : Bool :=
  p.payload.length = p.frames.toNat * p.channels.toNat * 3 && p.trailer.isSome == p.flags.getLsbD 1

/-- A COMMAND has at most 47 parameter bytes (R175), a RECALL is as long as its header declares (R159), and a rate window of
6,144,000 reference periods that did not lose its clock holds two edges or more, the last of them within the window (R81, R82).
A relock comes at most 5000 ms after the loss (R74). -/
def Instr.wf : Instr → Bool
  | .commandPacket _ _ params => params.length ≤ 47
  | .recallPacket p => p.wf
  | .rateWindowEnd _ edges span sinceLoss => 2 ≤ edges && 0 < span && span ≤ 6144000 && sinceLoss ≤ 5000
  | .probe | .deviceReset | .deviceResetEffect | .linkStats | .eventRead | .eventMask | .eventForce => true
  | .laneSet | .laneGet | .laneStatus | .laneReset | .speedSet | .inject => true
  | .itemQueue | .itemWithdraw | .itemStart | .itemEnd | .itemAbandon | .itemMark | .itemRead | .itemRelease | .tableStatus => true
  | .routeSet | .routeClear | .routeRead | .monitorSelect | .monitorStatus => true
  | .powerOn | .resetLineAssert | .resetLineRelease => true
  | .arrivingFrame _ _ | .injectionCountdownEnd _ _ | .detectorWindowEnd _ _ => true
  | .clockLoss _ | .dropoutExpiry _ | .cueLineChange _ _ | .cueDebounceEnd _ => true
  | .linkSignalAppear | .linkSignalLost | .linkWord _ => true
  | .routeIdleTimeout _ | .gatePacket _ | .malformedPacket _ => true
  | .holdLimitReached | .transmitStart | .packetSent | .monitorOutputFrame _ => true
  | .unknownCommandCode | .holdMillisecond => true

end Sys2Proof
end

