-- ==== Sys2Proof/Certificates/Slice0/Obligations.lean ====
section
/-! DEFINITION. The statements for the provers, from the numbered rules of the spec, chapter by chapter. -/

open Sys2Proof Sys2Proof.Machine

/-! ### The block's queue and the resets -/

/-- A step is the command at the front of the queue, executed on the state with the queue's rest; with none waiting the block idles (the model's choice, log 3). -/
def Obligations.StepRunsFront : Prop :=
  (∀ c rest s, s.pending = c :: rest → step s = exec c { s with pending := rest }) ∧ ∀ s, s.pending = [] → step s = .next s

/-- Every command answers a next state and leaves the model's queue of commands alone. -/
def Obligations.EveryCommandAnswers : Prop := ∀ c s, ∃ t, exec c s = .next t ∧ t.pending = s.pending

/-- The part after power-on, by the values the reset rules give. -/
def Obligations.ResetState : Prop :=
  State.reset.table.pool.length = 96 ∧ State.reset.table.closed = [] ∧ State.reset.memory = ⟨[], []⟩ ∧
    (∀ l, (State.reset.lane l).profile = ⟨false, .auto, 1, .two, 0, .b1024, 8, 4096, 5, 8389, 16777, 300, 3, 8388607, 4, .off, 20, 500, 10, ⟨1, 1⟩⟩ ∧
      (State.reset.lane l).port.lock = .noClock ∧ (State.reset.lane l).port.measured = 0 ∧ (State.reset.lane l).port.windowConcealed = 0 ∧
      (State.reset.lane l).port.counter = 0 ∧ (State.reset.lane l).port.concealed = 0 ∧ (State.reset.lane l).port.rejected = 0 ∧
      (State.reset.lane l).port.injection = 0 ∧ (State.reset.lane l).port.goodA = 0 ∧ (State.reset.lane l).port.goodB = 0 ∧
      (State.reset.lane l).port.assembly = .waiting ∧ (State.reset.lane l).port.declared = none ∧
      (State.reset.lane l).port.motion = .unknown ∧ (State.reset.lane l).cue.level = false ∧ (State.reset.lane l).cue.running = none ∧
      (State.reset.lane l).detector.state = .silence ∧ (State.reset.lane l).detector.runCount = 0 ∧
      (State.reset.lane l).detector.window = none ∧ (State.reset.lane l).detector.runA = none ∧ (State.reset.lane l).detector.runB = none ∧
      (State.reset.lane l).ring = [] ∧ (State.reset.lane l).eligible = none ∧ (State.reset.lane l).queue = [] ∧
      (State.reset.lane l).item = none ∧ (State.reset.lane l).baseline = none) ∧
    (∀ r, State.reset.route r = none) ∧
    (∀ id, (State.reset.monitor id).source = .none ∧ (State.reset.monitor id).state = .silent ∧ (State.reset.monitor id).fifo = [] ∧
      (State.reset.monitor id).ref = none ∧ (State.reset.monitor id).rate = 1 ∧ (State.reset.monitor id).underruns = 0 ∧
      (State.reset.monitor id).pace = .go) ∧
    State.reset.rx.state = .down ∧ State.reset.rx.align = 0 ∧ State.reset.rx.run = 0 ∧ State.reset.tx.hold = none ∧
    State.reset.tx.holdLimit = 0 ∧ State.reset.tx.inFlight = none ∧ State.reset.tx.stats = ⟨0, 0, 0, 0, 0, 0, 0, 0, 0⟩ ∧
    State.reset.cmd.done = [] ∧ State.reset.cmd.waiting = [] ∧ State.reset.events.mask = 0b111111111#9 ∧
    State.reset.events.notices = [] ∧ State.reset.events.cause = .powerOn ∧ ∀ f, State.reset.events.isSet f = false

/-- While the RESET line is held low nothing but the resets of the whole part has an effect; the cue lines and the received signal are
inputs whose levels are kept (log 7). -/
def Obligations.ResetLineHolds : Prop :=
  ∀ s : State, s.resetLow = true →
    (∀ c, c ≠ .powerOn → c ≠ .resetLineAssert → c ≠ .resetLineRelease → (∀ l low, c ≠ .cueLineChange l low) →
      c ≠ .linkSignalAppear → c ≠ .linkSignalLost → exec c s = .next s) ∧
    (∀ l low, exec (.cueLineChange l low) s = .next (s.setLane l { s.lane l with cue := { (s.lane l).cue with low := low } })) ∧
    exec .linkSignalAppear s = .next { s with rx := { s.rx with signal := true } } ∧
    exec .linkSignalLost s = .next { s with rx := { s.rx with signal := false } }

/-- Power-on, the RESET line taken low, and its release: every unit in its reset state, the link DOWN, every flag clear, every kind
enabled, the hold limit and the counters 0, and the reset cause of each. A cue line held low starts a debounce afresh, but not while the
RESET line holds the unit. A release of a line that is not low changes nothing (log 2); the cause stands until the release (log 26). The model's choices
in it: the levels of the cue lines and the received signal are kept (log 8), and the values that no rule gives for a reset, among them that no PACE waits (log 25). -/
def Obligations.WholeResets : Prop :=
  ∀ s : State,
    let after (held : Bool) (cause : ResetCause) (t : State) : Prop :=
      t.UnitsReset ∧ t.rx = ⟨.down, s.rx.signal, 0, 0, none⟩ ∧ t.tx.hold = none ∧ t.tx.beenUp = false ∧ t.tx.holdLimit = 0 ∧
        t.tx.paceReady = false ∧ t.tx.stats = ⟨0, 0, 0, 0, 0, 0, 0, 0, 0⟩ ∧ (∀ f, t.events.isSet f = false) ∧
        t.events.mask = 0b111111111#9 ∧ t.events.notices = [] ∧ t.events.cause = cause ∧ t.resetLow = held ∧
        ∀ l, (t.lane l).cue.low = (s.lane l).cue.low ∧
          (t.lane l).cue.running = if (s.lane l).cue.low = true ∧ held = false then some 20 else none
    (∃ t, exec .powerOn s = .next t ∧ after s.resetLow .powerOn t) ∧
    (∃ t, exec .resetLineAssert s = .next t ∧ after true s.events.cause t) ∧
    (s.resetLow = true → ∃ t, exec .resetLineRelease s = .next t ∧ after false .resetLine t) ∧
    (s.resetLow = false → exec .resetLineRelease s = .next s)

/-! ### The command unit -/

/-- The first two tests of a command, and the lane test of the lane commands and of ITEM_QUEUE: a code that is none of the part's, a wrong
number of parameter bytes, a lane beyond 7. Each refusal is the reply alone. -/
def Obligations.EarlyTests : Prop :=
  (∀ s c, s.ready c = true →
    c.code ∉ [0x01#8, 0x02, 0x03, 0x10, 0x11, 0x12, 0x20, 0x21, 0x22, 0x23, 0x24, 0x25, 0x30, 0x31, 0x32, 0x33, 0x34, 0x35, 0x36, 0x37,
      0x38, 0x40, 0x41, 0x42, 0x50, 0x51] →
    exec .unknownCommandCode s = .next (s.answered c .unknownCommand)) ∧
  (∀ row ∈ commandTable, ∀ s c, s.ready c = true → c.code = row.2.1 → c.params.length ≠ row.2.2 →
    exec row.1 s = .next (s.answered c .badParam)) ∧
  (∀ s c, s.ready c = true → c.code = 0x30#8 → ¬(15 ≤ c.params.length ∧ c.params.length = 15 + field c.params 14 1) →
    exec .itemQueue s = .next (s.answered c .badParam)) ∧
  (∀ row ∈ commandTable, row.1 ∈ [.laneSet, .laneGet, .laneStatus, .laneReset, .speedSet, .inject] →
    ∀ s c, s.ready c = true → c.code = row.2.1 → c.params.length = row.2.2 → 8 ≤ field c.params 0 1 →
      exec row.1 s = .next (s.answered c .badLane)) ∧
  (∀ s c, s.ready c = true → c.code = 0x30#8 → 15 ≤ c.params.length → c.params.length = 15 + field c.params 14 1 →
    8 ≤ field c.params 0 1 → exec .itemQueue s = .next (s.answered c .badLane))

/-- Whatever the command and its outcome, one reply is built: the tag and the code of the command, no result unless the status is OK, and
a summary of the flags and of the table as the command leaves them. -/
def Obligations.EveryCommandReplies : Prop :=
  ∀ (i : Instr) (code : Byte), ((i, code) ∈ commandTable.map (fun row => (row.1, row.2.1)) ∨ (i, code) = (.itemQueue, 0x30)) →
    ∀ s c, s.ready c = true → c.code = code → ∃ t r, exec i s = .next t ∧ t.cmd.done = s.cmd.done ++ [r] ∧
      t.cmd.waiting = s.cmd.waiting.drop 1 ∧ r.tag = c.tag ∧ r.code = c.code ∧ (r.status ≠ .ok → r.result = []) ∧
      (∀ l : LaneId, r.summary.attention.getLsbD l.val = (t.events.lanes[l] != 0)) ∧ r.summary.device = (t.events.device != 0) ∧
      r.summary.routeDone = (t.events.routes != 0) ∧ r.summary.closed = t.table.closed.length ∧ r.summary.free = t.table.pool.length

/-- PROBE takes no parameter, changes nothing, and answers the identity, the fixed pattern and the capacities. -/
def Obligations.ProbeAnswers : Prop :=
  ∀ s tag ps, s.ready ⟨tag, 0x01, ps⟩ = true →
    (ps = [] → exec .probe s = .next (s.answered ⟨tag, 0x01, ps⟩ .ok
      [0x57, 0x41, 0x84, 0x20, 0x01, 0x5A, 0x0F, 0x3C, 0x96, 8, 96, 192, 16, 2])) ∧
    (ps ≠ [] → exec .probe s = .next (s.answered ⟨tag, 0x01, ps⟩ .badParam))

/-- LINK_STATS places every counter in its result and clears them all. -/
def Obligations.LinkStatsRead : Prop :=
  ∀ s tag, s.ready ⟨tag, 0x03, []⟩ = true →
    exec .linkStats s = .next (({ s with tx := { s.tx with stats := ⟨0, 0, 0, 0, 0, 0, 0, 0, 0⟩ } } : State).answered ⟨tag, 0x03, []⟩ .ok
      (be 4 s.tx.stats.commands ++ be 4 s.tx.stats.recalls ++ be 4 s.tx.stats.gates ++ be 4 s.tx.stats.replies ++
        be 4 s.tx.stats.notices ++ be 4 s.tx.stats.blocks ++ be 4 s.tx.stats.paces ++ be 4 s.tx.stats.malformed ++
        be 4 s.tx.stats.holdTotal))

/-- EVENT_READ returns every flag, in the form of a selection, and clears the flags selected; mask, waiting notices and reset cause stay.
A selection that names no kind is refused. -/
def Obligations.EventReadClears : Prop :=
  ∀ s tag ps, s.ready ⟨tag, 0x10, ps⟩ = true → ps.length = 11 →
    (selectionValid ps → ∃ e result, exec .eventRead s = .next (({ s with events := e } : State).answered ⟨tag, 0x10, ps⟩ .ok result) ∧
      (∀ f, e.isSet f = (s.events.isSet f && !selects ps f)) ∧ e.mask = s.events.mask ∧ e.notices = s.events.notices ∧
      e.cause = s.events.cause ∧ result.length = 11 ∧ selectionValid result ∧ ∀ f, selects result f = s.events.isSet f) ∧
    (¬selectionValid ps → exec .eventRead s = .next (s.answered ⟨tag, 0x10, ps⟩ .badParam))

/-- EVENT_MASK writes the mask and the hold limit and returns those replaced; a hold already at or beyond the new limit sets LINK_STALL at
once, for the first time in that hold. A hold limit out of range, or a mask bit of no kind, is refused. -/
def Obligations.EventMaskWrites : Prop :=
  ∀ s tag ps, s.ready ⟨tag, 0x11, ps⟩ = true → ps.length = 4 →
    let limit := field ps 2 2
    let accepted := field ps 0 2 < 512 ∧ (limit = 0 ∨ (10 ≤ limit ∧ limit ≤ 60000))
    let written : State := { s with
      events := { s.events with mask := BitVec.ofNat 9 (field ps 0 2) }
      tx := { s.tx with holdLimit := limit } }
    let result := be 2 s.events.mask.toNat ++ be 2 s.tx.holdLimit
    (¬accepted → exec .eventMask s = .next (s.answered ⟨tag, 0x11, ps⟩ .badParam)) ∧
    (accepted → (∀ h, s.tx.hold = some h → limit = 0 ∨ h.timer < limit ∨ h.stalled = true) →
      exec .eventMask s = .next (written.answered ⟨tag, 0x11, ps⟩ .ok result)) ∧
    (accepted → ∀ timer, s.tx.hold = some ⟨timer, false⟩ → limit ≠ 0 → limit ≤ timer →
      exec .eventMask s = .next ((({ written with tx := { written.tx with hold := some ⟨timer, true⟩ } } : State).raise
        (.device .linkStall)).answered ⟨tag, 0x11, ps⟩ .ok result))

/-- EVENT_FORCE sets every flag it names. Each that was clear makes a notice ready with item number 0, when the link is UP, its kind is
enabled and none of it waits; nothing else changes. A selection that names no kind is refused. -/
def Obligations.EventForceRaises : Prop :=
  ∀ s tag ps, s.ready ⟨tag, 0x12, ps⟩ = true → ps.length = 11 →
    (selectionValid ps → ∃ e fresh, exec .eventForce s = .next (({ s with events := e } : State).answered ⟨tag, 0x12, ps⟩ .ok) ∧
      (∀ f, e.isSet f = (s.events.isSet f || selects ps f)) ∧ e.mask = s.events.mask ∧ e.cause = s.events.cause ∧
      e.notices = s.events.notices ++ fresh ∧ fresh.Nodup ∧
      ∀ n, n ∈ fresh ↔ ∃ f, n = .event f 0 ∧ selects ps f = true ∧ s.events.isSet f = false ∧ s.rx.state = .up ∧
        s.events.mask.getLsbD f.maskIndex = true ∧ ∀ item, .event f item ∉ s.events.notices) ∧
    (¬selectionValid ps → exec .eventForce s = .next (s.answered ⟨tag, 0x12, ps⟩ .badParam))

/-- DEVICE_RESET: its reply is built at once with every table intact; the reset then awaits the reply's sending, or is due at once when the
link is not UP; and no command is executed meanwhile. -/
def Obligations.DeviceResetCommand : Prop :=
  (∀ s tag, s.ready ⟨tag, 0x02, []⟩ = true → exec .deviceReset s = .next
    (({ s with cmd := { s.cmd with reset := if s.rx.state = .up then .replyAwaited else .due } } : State).answered ⟨tag, 0x02, []⟩ .ok)) ∧
  ∀ i, (i ∈ commandTable.map Prod.fst ∨ i = .itemQueue ∨ i = .unknownCommandCode) →
    ∀ s, s.awake = true → s.cmd.reset = .replyAwaited → exec i s = .next s

/-- A DEVICE_RESET that is due takes effect: the units reset, the queue emptied, every flag clear, the gate GO, and the link, the mask,
the hold limit and the counters kept; a hold goes on only when the link is not UP; a STATUS notice and, for a port at HOLD, a PACE are ready.
It comes before any other event (log 6); when none is due there is no such effect (log 2). The model's choices in it: the levels of the cue lines are kept
(log 8), the values that no rule gives for a reset stand as at power-on, and a PACE already waiting goes on waiting (log 25). -/
def Obligations.DeviceResetEffect : Prop :=
  ∀ s : State,
    (s.resetLow = false → s.cmd.reset = .due → ∃ t, exec .deviceResetEffect s = .next t ∧ t.UnitsReset ∧
      t.rx = s.rx ∧ t.tx.gate = .go ∧ t.tx.hold = (if s.rx.state = .up then none else s.tx.hold) ∧ t.tx.beenUp = s.tx.beenUp ∧
      t.tx.holdLimit = s.tx.holdLimit ∧ t.tx.stats = s.tx.stats ∧
      t.tx.paceReady = (s.tx.paceReady || s.monA.pace == .hold || s.monB.pace == .hold) ∧
      (∀ f, t.events.isSet f = false) ∧ t.events.mask = s.events.mask ∧ t.events.cause = .deviceReset ∧
      t.events.notices = (if s.rx.state = .up then [.status] else []) ∧ t.resetLow = false ∧
      (∀ l, (t.lane l).cue.low = (s.lane l).cue.low ∧
        (t.lane l).cue.running = if (s.lane l).cue.low = true then some 20 else none) ∧
      ∀ c, c ≠ .resetLineAssert → c ≠ .resetLineRelease → exec c s = exec c t) ∧
    (s.resetLow = true ∨ s.cmd.reset ≠ .due → exec .deviceResetEffect s = .next s)

/-! ### The lane commands -/

/-- LANE_SET's refusals after the lane test, in the order of its tests: a field outside its codes, a lane with an open item or one that may
not be disabled, a ratio out of bounds when it enables the lane. The premise on a lane that is OFF is R8's invariant. -/
def Obligations.LaneSetRefused : Prop :=
  ∀ s tag ps (l : LaneId), s.ready ⟨tag, 0x20, ps⟩ = true → ps.length = 37 → field ps 0 1 = l.val →
    ((s.lane l).profile.enabled = false → (s.lane l).item = none ∧ (s.lane l).queue = []) →
    (¬laneSetFields ps → exec .laneSet s = .next (s.answered ⟨tag, 0x20, ps⟩ .badParam)) ∧
    (laneSetFields ps → field ps 1 1 ≠ 1 → (s.lane l).item.isSome = true →
      exec .laneSet s = .next (s.answered ⟨tag, 0x20, ps⟩ .laneBusy)) ∧
    (laneSetFields ps → field ps 1 1 ≠ 1 → (s.lane l).profile.enabled = true → field ps 2 1 = 0 → (s.lane l).queue ≠ [] →
      exec .laneSet s = .next (s.answered ⟨tag, 0x20, ps⟩ .laneBusy)) ∧
    (laneSetFields ps → field ps 1 1 ≠ 1 → (s.lane l).profile.enabled = false → field ps 2 1 = 1 →
      ¬(1 ≤ field ps 33 2 ∧ 1 ≤ field ps 35 2 ∧ field ps 35 2 ≤ 4 * field ps 33 2 ∧ field ps 33 2 ≤ 4 * field ps 35 2) →
      exec .laneSet s = .next (s.answered ⟨tag, 0x20, ps⟩ .badRatio))

/-- An accepted LANE_SET writes the selected groups, clamped, and the ratio when it enables the lane; it returns the profile as stored; it
cuts the ring to the history length; and it restarts measurement exactly when the rate code or channels in use or the tolerance change.
Everything else of the lane and of the part stays, the eligibility start among it, which is absent once the frame it names is cut off (log 19). -/
def Obligations.LaneSetAccepted : Prop :=
  ∀ s tag ps (l : LaneId), s.ready ⟨tag, 0x20, ps⟩ = true → ps.length = 37 → field ps 0 1 = l.val →
    ((s.lane l).profile.enabled = false → (s.lane l).item = none ∧ (s.lane l).queue = []) →
    laneSetFields ps → (field ps 1 1 ≠ 1 → (s.lane l).item = none) →
    (field ps 1 1 ≠ 1 → (s.lane l).profile.enabled = true → field ps 2 1 = 0 → (s.lane l).queue = []) →
    (field ps 1 1 ≠ 1 → (s.lane l).profile.enabled = false → field ps 2 1 = 1 →
      1 ≤ field ps 33 2 ∧ 1 ≤ field ps 35 2 ∧ field ps 35 2 ≤ 4 * field ps 33 2 ∧ field ps 33 2 ≤ 4 * field ps 35 2) →
    let x := s.lane l
    ∃ (p : Profile) (y : Lane) (t : State), exec .laneSet s = .next (t.answered ⟨tag, 0x20, ps⟩ .ok p.bytes) ∧ y.profile = p ∧
      (field ps 1 1 ≠ 1 → (p.enabled = true ↔ field ps 2 1 = 1) ∧ p.source.code = field ps 3 1 ∧ p.rate.val = field ps 4 1 ∧
        p.channels.count = field ps 5 1 ∧ p.deck.toNat = field ps 6 2 ∧ p.blockSize.frames = field ps 8 2 ∧
        p.quota = max 2 (min (field ps 10 1) 64) ∧ p.history = min (field ps 11 2) 8192 ∧
        p.tolerance = max 1 (min (field ps 13 1) 20)) ∧
      (field ps 1 1 = 1 → p.enabled = x.profile.enabled ∧ p.source = x.profile.source ∧ p.rate = x.profile.rate ∧
        p.channels = x.profile.channels ∧ p.deck = x.profile.deck ∧ p.blockSize = x.profile.blockSize ∧ p.quota = x.profile.quota ∧
        p.history = x.profile.history ∧ p.tolerance = x.profile.tolerance) ∧
      (field ps 1 1 ≠ 0 → p.low = min (field ps 14 3) 8388607 ∧ p.high = max p.low (min (field ps 17 3) 8388607) ∧
        p.ns = max 1 (min (field ps 20 2) 6000) ∧ p.ng = max 1 (min (field ps 22 1) 100) ∧
        p.clip = max 1 (min (field ps 23 3) 8388608) ∧ p.runK = max 1 (min (field ps 26 1) 16) ∧ p.cueMode.code = field ps 27 1 ∧
        p.debounce = max 1 (field ps 28 1) ∧ p.grace = min (field ps 29 2) 5000 ∧ p.quality = max 1 (min (field ps 31 2) 1000)) ∧
      (field ps 1 1 = 0 → p.low = x.profile.low ∧ p.high = x.profile.high ∧ p.ns = x.profile.ns ∧ p.ng = x.profile.ng ∧
        p.clip = x.profile.clip ∧ p.runK = x.profile.runK ∧ p.cueMode = x.profile.cueMode ∧ p.debounce = x.profile.debounce ∧
        p.grace = x.profile.grace ∧ p.quality = x.profile.quality) ∧
      p.ratio = (if field ps 1 1 ≠ 1 ∧ x.profile.enabled = false ∧ field ps 2 1 = 1 then ⟨field ps 33 2, field ps 35 2⟩ else x.profile.ratio) ∧
      y.ring = x.ring.drop (x.ring.length - p.history) ∧ y.cue = x.cue ∧ y.detector = x.detector ∧ y.queue = x.queue ∧ y.item = x.item ∧
      y.baseline = x.baseline ∧ (x.eligible = none → y.eligible = none) ∧
      (∀ v, x.eligible = some v → y.eligible = if y.ring.any fun f => f.counter == v then some v else none) ∧
      let changed := y.inUse.rate ≠ x.inUse.rate ∨ y.inUse.channels ≠ x.inUse.channels ∨ p.tolerance ≠ x.profile.tolerance
      (¬changed ∨ x.port.lock = .noClock → y.port = x.port ∧ t = s.setLane l y) ∧
      (changed → x.port.lock ≠ .noClock →
        y.port = { x.port with lock := .measuring, measured := 0, windowConcealed := 0, windowLimit := p.quality } ∧
        (x.port.lock ≠ .locked → t = s.setLane l y) ∧ (x.port.lock = .locked → t = (s.setLane l y).raise (.lane l .lockChange)))

/-- LANE_GET returns the lane's profile: every field of both groups as stored, in the table's order, and the ratio as the pair last
written. It changes nothing. A lane beyond 7 is refused. -/
def Obligations.LaneGet : Prop :=
  ∀ s tag ps, s.ready ⟨tag, 0x21, ps⟩ = true → ps.length = 1 →
    (∀ l : LaneId, field ps 0 1 = l.val →
      let p := (s.lane l).profile
      exec .laneGet s = .next (s.answered ⟨tag, 0x21, ps⟩ .ok
        (be 1 p.enabled.toNat ++ be 1 p.source.code ++ be 1 p.rate.val ++ be 1 p.channels.count ++ be 2 p.deck.toNat ++
          be 2 p.blockSize.frames ++ be 1 p.quota ++ be 2 p.history ++ be 1 p.tolerance ++ be 3 p.low ++ be 3 p.high ++ be 2 p.ns ++
          be 1 p.ng ++ be 3 p.clip ++ be 1 p.runK ++ be 1 p.cueMode.code ++ be 1 p.debounce ++ be 2 p.grace ++ be 2 p.quality ++
          be 2 p.ratio.p ++ be 2 p.ratio.q))) ∧
    (8 ≤ field ps 0 1 → exec .laneGet s = .next (s.answered ⟨tag, 0x21, ps⟩ .badLane))

/-- LANE_STATUS returns the lane's live state and then clears its concealment and rejected-word counters, and nothing else. A declared value
that is absent is a presence byte 0 and zeros (log 12). -/
def Obligations.LaneStatusRead : Prop :=
  ∀ s tag ps (l : LaneId), s.ready ⟨tag, 0x22, ps⟩ = true → ps.length = 1 → field ps 0 1 = l.val →
    let x := s.lane l
    let declared : List Byte := match x.port.declared with
      | none => [0] ++ [0, 0, 0] ++ [0, 0] ++ [0, 0]
      | some d => [1] ++ 1 :: be 2 d.deck.toNat ++ 1 :: be 1 d.rate.val ++ 1 :: be 1 d.channels.count
    let transfer : Nat := if x.profile.enabled = false then 0 else match x.item with
      | some o => if o.dropout = none then 3 else 4
      | none => if x.queue = [] then 1 else 2
    exec .laneStatus s = .next ((s.setLane l { x with port := { x.port with concealed := 0, rejected := 0 } }).answered ⟨tag, 0x22, ps⟩ .ok
      (be 1 x.port.lock.code ++ be 4 x.port.measured ++ be 1 x.inUse.rate.val ++ be 1 x.inUse.channels.count ++ be 2 x.inUse.deck.toNat ++
        declared ++ be 1 x.port.motion.code ++ be 1 x.cue.level.toNat ++ be 1 transfer ++ be 6 x.port.counter.toNat ++
        be 2 x.port.injection ++ be 4 x.port.concealed ++ be 2 x.port.rejected))

/-- LANE_RESET as one step: the lane's flags clear, its open item closed with LANE_RESET, its queue freed without an arming, its units
reset and its profile kept; a cue line held low starts a debounce afresh. The result counts the records freed and names the item closed.
The other lanes stay as they are, but that one which waits for a buffer may be granted one, and the link, the routes, the monitors and the other flags
stay. The LAST entry of the item and the waiting-lane list are as at any close. The model's choices in it: the freed records join the end of the pool in the
order of the queue (log 10), and the values of the port and the detector that no rule gives for a reset (log 25). -/
def Obligations.LaneReset : Prop :=
  ∀ s tag ps (l : LaneId), s.ready ⟨tag, 0x23, ps⟩ = true → ps.length = 1 → field ps 0 1 = l.val →
    let x := s.lane l
    ∃ (t : State) (closed : List ClosedRecord), exec .laneReset s = .next (t.answered ⟨tag, 0x23, ps⟩ .ok
        (be 1 x.queue.length ++ be 4 ((x.item.map fun o => o.queued.item.toNat).getD 0))) ∧
      (t.lane l).AtReset x.profile ∧ (t.lane l).cue.low = x.cue.low ∧
      (t.lane l).cue.running = (if x.cue.low = true then some x.profile.debounce else none) ∧
      t.table.pool = s.table.pool ++ x.queue.map Queued.record ∧ t.table.closed = s.table.closed ++ closed ∧
      (x.item = none → closed = []) ∧
      (∀ o, x.item = some o → ∃ c b, closed = [c] ∧ c.queued = o.queued ∧ c.lane = l ∧ c.reason = .laneReset ∧
        c.record = { o.record with blocks := o.record.blocks + 1 } ∧ t.memory.queue = s.memory.queue ++ [b] ∧
        o.LastEntry l .laneReset b ∧ s.WaitingAfterClose t l o) ∧
      (∀ e, t.events.isSet (.lane l e) = (x.item.isSome && e == .itemClosed)) ∧
      (∀ f, (∀ e, f ≠ .lane l e) → t.events.isSet f = s.events.isSet f) ∧ t.events.mask = s.events.mask ∧
      (x.item = none → t.memory = s.memory) ∧
      (∀ k, k ≠ l → t.lane k = s.lane k ∨ ∃ o, (s.lane k).item = some o ∧ k ∈ s.memory.waiting ∧
        t.lane k = { s.lane k with item := some { o with buffer := some ⟨0, 0, []⟩ } }) ∧
      t.tx = s.tx ∧ t.rx = s.rx ∧ t.cmd = s.cmd ∧ t.routes = s.routes ∧ t.monA = s.monA ∧ t.monB = s.monB ∧ t.resetLow = s.resetLow

/-- SPEED_SET: its refusals in order, and by R62's table what an accepted one leaves pending in the open item. The result is the profile's
ratio, the open item or 0, its segment count or 0, and whether a change is pending. -/
def Obligations.SpeedSet : Prop :=
  ∀ s tag ps (l : LaneId), s.ready ⟨tag, 0x24, ps⟩ = true → ps.length = 5 → field ps 0 1 = l.val →
    let x := s.lane l
    let r : Ratio := ⟨field ps 1 2, field ps 3 2⟩
    let inBounds := 1 ≤ r.p ∧ 1 ≤ r.q ∧ r.q ≤ 4 * r.p ∧ r.p ≤ 4 * r.q
    let written := { x with profile := { x.profile with ratio := r } }
    (x.profile.enabled = false → exec .speedSet s = .next (s.answered ⟨tag, 0x24, ps⟩ .laneOff)) ∧
    (x.profile.enabled = true → ¬inBounds → exec .speedSet s = .next (s.answered ⟨tag, 0x24, ps⟩ .badRatio)) ∧
    (x.profile.enabled = true → inBounds → x.item = none → exec .speedSet s = .next ((s.setLane l written).answered ⟨tag, 0x24, ps⟩ .ok
      (be 2 r.p ++ be 2 r.q ++ [0, 0, 0, 0] ++ [0] ++ [0]))) ∧
    (x.profile.enabled = true → inBounds → ∀ o g, x.item = some o → o.record.segments.getLast? = some g →
      (r.p * g.ratio.q = g.ratio.p * r.q → exec .speedSet s = .next
        ((s.setLane l { written with item := some { o with pendingSpeed := none } }).answered ⟨tag, 0x24, ps⟩ .ok
          (be 2 r.p ++ be 2 r.q ++ be 4 o.queued.item.toNat ++ be 1 o.record.segments.length ++ [0]))) ∧
      (r.p * g.ratio.q ≠ g.ratio.p * r.q → o.record.segments.length < 8 → exec .speedSet s = .next
        ((s.setLane l { written with item := some { o with pendingSpeed := some r } }).answered ⟨tag, 0x24, ps⟩ .ok
          (be 2 r.p ++ be 2 r.q ++ be 4 o.queued.item.toNat ++ be 1 o.record.segments.length ++ [1]))) ∧
      (r.p * g.ratio.q ≠ g.ratio.p * r.q → 8 ≤ o.record.segments.length →
        exec .speedSet s = .next (s.answered ⟨tag, 0x24, ps⟩ .segmentsFull)))

/-- INJECT loads the countdown and returns the one replaced, or refuses a count outside 1..256. The taken frame that brings the countdown to
0 has its A sample concealed whatever its parity; it is the arriving frame itself (log 5), and where the next frame taken would not end
a countdown there is no such event (log 2). -/
def Obligations.Injection : Prop :=
  (∀ s tag ps (l : LaneId), s.ready ⟨tag, 0x25, ps⟩ = true → ps.length = 3 → field ps 0 1 = l.val →
    let x := s.lane l
    let k := field ps 1 2
    (1 ≤ k → k ≤ 256 → exec .inject s = .next ((s.setLane l { x with port := { x.port with injection := k } }).answered ⟨tag, 0x25, ps⟩ .ok
      (be 2 x.port.injection))) ∧
    (k = 0 ∨ 256 < k → exec .inject s = .next (s.answered ⟨tag, 0x25, ps⟩ .badParam))) ∧
  ∀ (s : State) (l : LaneId) slot, s.awake = true →
    let x := s.lane l
    (x.port.lock = .locked → x.port.injection = 1 → ∃ t, exec (.injectionCountdownEnd l slot) s = .next t ∧
      exec (.arrivingFrame l slot) s = .next t ∧ (t.lane l).port.injection = 0 ∧ (t.lane l).port.counter = x.port.counter + 1 ∧
      (t.lane l).port.goodA = x.port.goodA ∧ (x.frameTaken slot).a = x.port.goodA ∧ (x.frameTaken slot).concA = true ∧
      (t.lane l).port.concealed = min 4294967295
        (x.port.concealed + 1 + if x.inUse.channels = .two ∧ failsParity slot.b = true then 1 else 0)) ∧
    (x.port.lock ≠ .locked ∨ x.port.injection ≠ 1 → exec (.injectionCountdownEnd l slot) s = .next s)

/-! ### The lane port, the detector and the cue unit -/

/-- A slot that arrives while the port is not LOCKED is not taken: no count moves and nothing but the status word assembly of R87 and R88
reads it, after an edge in NO_CLOCK has begun the first window (log 17). A word that changes the rate code or channels in use restarts
measurement and closes the lane's open item with RATE_CHANGE, the eligibility start absent where the ring does not hold the item's last frame (log 19). The
premise on the port is part of the invariant LanesLawful. -/
def Obligations.FrameNotTaken : Prop :=
  ∀ (s : State) (l : LaneId) (slot : Slot), s.awake = true → (s.lane l).port.lock ≠ .locked → (s.lane l).port.Lawful →
    let x := s.lane l
    let p : LanePort := if x.port.lock = .noClock then
      { x.port with lock := .measuring, measured := 0, windowConcealed := 0, windowLimit := x.profile.quality } else x.port
    let bit : BitVec 64 := if slot.a.getLsbD 1 then 1 else 0
    let marker := slot.b.getLsbD 1
    let fails := failsParity slot.a || failsParity slot.b
    let becomes (q : LanePort) : Prop := exec (.arrivingFrame l slot) s = .next (s.setLane l { x with port := q })
    (p.assembly = .waiting → marker = false → becomes p) ∧
    (p.assembly = .waiting → marker = true → becomes { p with assembly := .collecting 1 bit fails }) ∧
    ∀ n word spoiled, p.assembly = .collecting n word spoiled →
      (marker = true → becomes { p with assembly := .collecting 1 bit fails, rejected := min 65535 (p.rejected + 1) }) ∧
      (marker = false → n < 63 → becomes { p with assembly := .collecting (n + 1) ((word <<< 1) ||| bit) (spoiled || fails) }) ∧
      (marker = false → 63 ≤ n → spoiled = true ∨ fails = true ∨ goodWord ((word <<< 1) ||| bit) = none →
        becomes { p with assembly := .waiting, rejected := min 65535 (p.rejected + 1) }) ∧
      (marker = false → 63 ≤ n → spoiled = false → fails = false → ∀ d m, goodWord ((word <<< 1) ||| bit) = some (d, m) →
        (x.profile.source = .fixed ∨ (d.rate = x.inUse.rate ∧ d.channels = x.inUse.channels) →
          becomes { p with assembly := .waiting, declared := some d, motion := m }) ∧
        (x.profile.source = .auto → d.rate ≠ x.inUse.rate ∨ d.channels ≠ x.inUse.channels →
          let u := s.setLane l { x with port := { p with assembly := .waiting, declared := some d, motion := m, lock := .measuring, measured := 0,
                                                         windowConcealed := 0, windowLimit := x.profile.quality } }
          (x.item = none → exec (.arrivingFrame l slot) s = .next u) ∧
          ∀ o, x.item = some o → ∃ t, exec (.arrivingFrame l slot) s = .next t ∧ u.ItemCloses t l o .rateChange))

/-- A slot that a LOCKED port takes. Where no open item or head uses it: the counter and the countdown, the concealment of each failing channel in use by its
previous good sample, the counts, QUALITY when the window's count passes its threshold, the ring, the monitors that play the lane live, and the status word with
what a word that it ends changes, a changed rate code or channel count in use restarting measurement (log 15). On an ARMED lane the port does the same, and by its
start rule the head is left, or opens: an IMMEDIATE head just before the frame, which is then handled as any frame of the state it opens in (log 14), a SIGNAL or
DECK head just after it. What the frame makes of the detector is said by DetectorWindow. The model's choices in it besides: an eligibility start whose frame has
left the ring is absent (log 19), and the order in which the flags of one step are raised, OVERRUN before ITEM_OPENED before ITEM_CLOSED (log 11). -/
def Obligations.FrameTaken : Prop :=
  (∀ (s : State) (l : LaneId) (slot : Slot), s.awake = true → (s.lane l).port.lock = .locked →
    ((s.lane l).profile.enabled = false ∨ ((s.lane l).item = none ∧ (s.lane l).queue = [])) →
    let x := s.lane l
    let two := x.inUse.channels = .two
    ∃ t f, exec (.arrivingFrame l slot) s = .next t ∧ f = x.frameTaken slot ∧ f.counter = x.port.counter ∧
      f.concA = (failsParity slot.a || x.port.injection == 1) ∧
      f.a = (if f.concA = true then x.port.goodA else slot.a.extractLsb' 2 24) ∧
      (two → f.concB = failsParity slot.b ∧ f.b = if f.concB = true then x.port.goodB else slot.b.extractLsb' 2 24) ∧
      (¬two → f.concB = false ∧ f.b = 0) ∧
      (let y := t.lane l
      let count := f.concA.toNat + f.concB.toNat
      let changed := y.inUse.rate ≠ x.inUse.rate ∨ y.inUse.channels ≠ x.inUse.channels
      y.port.counter = x.port.counter + 1 ∧ y.port.injection = x.port.injection - 1 ∧
        y.port.concealed = min 4294967295 (x.port.concealed + count) ∧
        y.port.goodA = (if f.concA = true then x.port.goodA else f.a) ∧
        y.port.goodB = (if two ∧ f.concB = false then f.b else x.port.goodB) ∧
        x.port.Hears y.port slot (f.concA || failsParity slot.b) ∧
        (¬changed → y.port.lock = .locked ∧ y.port.measured = x.port.measured ∧ y.port.windowLimit = x.port.windowLimit ∧
          y.port.windowConcealed = x.port.windowConcealed + count) ∧
        (changed → y.port.lock = .measuring ∧ y.port.measured = 0 ∧ y.port.windowLimit = x.profile.quality ∧ y.port.windowConcealed = 0) ∧
        y.ring = (x.ring ++ [f]).drop (x.ring.length + 1 - x.profile.history) ∧ (x.eligible = none → y.eligible = none) ∧
        (∀ v, x.eligible = some v → y.eligible = if y.ring.any fun f => f.counter == v then some v else none) ∧
        y.profile = x.profile ∧ y.queue = x.queue ∧ y.item = x.item ∧ y.cue = x.cue ∧ y.baseline = x.baseline ∧
        t.events.isSet (.lane l .quality) = (s.events.isSet (.lane l .quality) ||
          decide (x.port.windowConcealed ≤ x.port.windowLimit ∧ x.port.windowLimit < x.port.windowConcealed + count)) ∧
        t.events.isSet (.lane l .lockChange) = (s.events.isSet (.lane l .lockChange) || decide changed)) ∧
      (∀ g, g ≠ .lane l .quality → g ≠ .lane l .lockChange → t.events.isSet g = s.events.isSet g) ∧
      (∀ id, t.monitor id = if (s.monitor id).source = .lane l then
          { s.monitor id with live := some ⟨f.a, if two then f.b else f.a⟩ } else s.monitor id) ∧
      (∀ k, k ≠ l → t.lane k = s.lane k) ∧ t.table = s.table ∧ t.memory = s.memory ∧ t.tx = s.tx ∧ t.rx = s.rx ∧ t.cmd = s.cmd ∧
      t.routes = s.routes) ∧
  ∀ (s : State) (l : LaneId) (slot : Slot) (q : Queued) rest, s.awake = true → (s.lane l).port.lock = .locked →
    (s.lane l).profile.enabled = true → (s.lane l).item = none → (s.lane l).queue = q :: rest →
    let x := s.lane l
    (q.startRule = .immediate →
      let frames := (x.eligibleBefore slot).drop ((x.eligibleBefore slot).length - q.preroll)
      ∃ u, s.HeadStarts u l q frames ∧ exec (.arrivingFrame l slot) s = exec (.arrivingFrame l slot) u) ∧
    (q.startRule ≠ .immediate →
      ∃ t₀, exec (.arrivingFrame l slot) (s.setLane l { x with queue := [] }) = .next t₀ ∧
        let y := t₀.lane l
        let u := t₀.setLane l { y with queue := x.queue }
        let starts := y.port.lock = .locked ∧
          (q.startRule = .signal ∧ x.detector.state = .silence ∧ y.detector.state = .signal ∨
            q.startRule = .deck ∧ x.port.motion ≠ .play ∧ y.port.motion = .play)
        (¬starts → exec (.arrivingFrame l slot) s = .next u) ∧
        (starts → ∃ t, exec (.arrivingFrame l slot) s = .next t ∧
          u.HeadStarts t l q (y.eligibleFrames.drop (y.eligibleFrames.length - q.preroll))))

/-- A frame of the open item of a RECORDING lane. The port does with it what it does on an IDLE lane (FrameTaken); a pending ratio takes effect, in a new
segment that starts at the length with its programme time, or in the last segment where that holds no frame yet; the frame
takes the next offset, goes to the buffer or is lost, and is counted and marked (ItemTakes); the overload runs of channel A and then of channel B (log 29), the
SILENCE mark and the programme length follow, by the reports that DetectorWindow spells out; and then the item goes on, or closes with the first that holds
of RATE_CHANGE, CAP, LENGTH, SILENCE and DECK. The model's choices in it besides: OVERRUN and then ITEM_CLOSED are raised behind the frame's other flags
(log 11), and the eligibility start is absent where the ring does not hold the item's last frame (log 19). -/
def Obligations.FrameOfItem : Prop :=
  ∀ (s : State) (l : LaneId) (slot : Slot) (o : OpenItem), s.awake = true → (s.lane l).port.lock = .locked →
    (s.lane l).profile.enabled = true → (s.lane l).item = some o →
    let x := s.lane l
    let f := x.frameTaken slot
    let report := (x.reportOf slot).detector
    let begun : OpenItem := { o with
      pendingSpeed := none
      record := match o.pendingSpeed with
        | some ratio => o.record.changeSpeed ratio
        | none => o.record }
    (∀ ratio g, o.pendingSpeed = some ratio → o.record.segments.getLast? = some g → begun.record = { o.record with segments :=
      if g.start = o.record.length then o.record.segments.dropLast ++ [⟨g.start, ratio, g.programme⟩]
      else o.record.segments ++ [⟨o.record.length, ratio, o.record.prog o.record.length⟩] }) ∧
    ∃ (t₀ u : State) (m a b c : OpenItem),
      exec (.arrivingFrame l slot) (s.setLane l { x with item := none, queue := [] }) = .next t₀ ∧
      (t₀.setLane l { t₀.lane l with item := some begun, queue := x.queue }).ItemTakes u l f begun m ∧
      m.OverloadAccounted a f.counter report.reportA report.runA true ∧ a.OverloadAccounted b f.counter report.reportB report.runB false ∧
      b.SilenceAccounted c f.counter report.declared ∧
      let y := t₀.lane l
      let p : OpenItem := { c with live := true, record := { c.record with programme := c.record.prog c.record.length } }
      let v := u.setLane l { u.lane l with item := some p }
      let reason : Option CloseReason :=
        if y.inUse.rate ≠ x.inUse.rate ∨ y.inUse.channels ≠ x.inUse.channels then some .rateChange
        else if 68719476735 ≤ p.record.length ∨ 4294967295 ≤ p.record.lost then some .cap
        else if o.queued.ends.length = true ∧ o.queued.target ≤ p.record.programme then some .length
        else if o.queued.ends.silence = true ∧ x.detector.state = .signal ∧ y.detector.state = .silence then some .silence
        else if o.queued.ends.deck = true ∧ x.port.motion = .play ∧ y.port.motion ≠ .play then some .deck
        else none
      (reason = none → exec (.arrivingFrame l slot) s = .next v) ∧
      ∀ r, reason = some r → ∃ t, exec (.arrivingFrame l slot) s = .next t ∧ v.ItemCloses t l p r

/-- A taken frame at the detector: it joins the window in progress or begins one with the profile's settings, raises the window's peak and steps the overload
runs of the channels in use; a window that is not complete changes neither the state nor the run count. A frame that completes a window is judged with
it: a window whose peak reaches the high threshold argues for leaving SILENCE, one whose peak is below the low threshold for leaving SIGNAL; Ng or Ns of them in
a row change the state, and any other window starts the count again. What the lane has of it is the frame's report: the declaration, each channel's
report and each channel's run. The row of a window's end is the arriving frame itself (log 5); where the next frame taken would not complete a window
there is no such event (log 2). -/
def Obligations.DetectorWindow : Prop :=
  ∀ (s : State) (l : LaneId) (slot : Slot), s.awake = true →
    let x := s.lane l
    let d := x.detector
    let f := x.frameTaken slot
    let size := rateHz x.inUse.rate / 100
    (x.port.lock = .locked → ∃ t, exec (.arrivingFrame l slot) s = .next t ∧
      d.Takes (t.lane l).detector x.profile x.inUse f (x.reportOf slot).detector) ∧
    (∀ w, x.port.lock = .locked → d.window = some w → w.frames + 1 = size →
      ∃ t, exec (.detectorWindowEnd l slot) s = .next t ∧ exec (.arrivingFrame l slot) s = .next t ∧
        (t.lane l).detector.window = none ∧
        (let e := (t.lane l).detector
        let peak := max w.peak (if x.inUse.channels = .two then max f.a.toInt.natAbs f.b.toInt.natAbs else f.a.toInt.natAbs)
        (d.state = .silence → w.high ≤ peak → w.ng ≤ d.runCount + 1 → e.state = .signal ∧ e.runCount = 0) ∧
        (d.state = .silence → w.high ≤ peak → d.runCount + 1 < w.ng → e.state = .silence ∧ e.runCount = d.runCount + 1) ∧
        (d.state = .silence → peak < w.high → e.state = .silence ∧ e.runCount = 0) ∧
        (d.state = .signal → peak < w.low → w.ns ≤ d.runCount + 1 → e.state = .silence ∧ e.runCount = 0) ∧
        (d.state = .signal → peak < w.low → d.runCount + 1 < w.ns → e.state = .signal ∧ e.runCount = d.runCount + 1) ∧
        (d.state = .signal → w.low ≤ peak → e.state = .signal ∧ e.runCount = 0))) ∧
    (x.port.lock ≠ .locked ∨ d.window = none ∨ (∃ w, d.window = some w ∧ w.frames + 1 ≠ size) →
      exec (.detectorWindowEnd l slot) s = .next s)

/-- The end of a measurement window, of any lane where it passes in LOCKED and of a lane without an open item elsewhere: the measured rate m = (N - 1) × 24,576,000 / T, reported in sixteenths
of a hertz and rounded half up; the exact test |m - e| ≤ e × t / 1000; and by R81's table the lock state, LOCK_CHANGE, and at a lock acquisition
the detector reset and the ring emptied. An open item is untouched by a window that passes in LOCKED; that its dropout timer does not run there is the invariant
TransferLawful. In NO_CLOCK there is no window (log 2). That the reset detector's run start is 0 is the model's choice (log 25). -/
def Obligations.RateWindow : Prop :=
  ∀ (s : State) (l : LaneId) (edges span sinceLoss : Nat), s.awake = true →
    let x := s.lane l
    let m : ℚ := (edges - 1 : ℕ) * 24576000 / span
    let e : ℚ := rateHz x.inUse.rate
    let passes := |m - e| ≤ e * x.profile.tolerance / 1000
    let p : LanePort := { x.port with measured := min 4294967295 ⌊16 * m + 1 / 2⌋₊, windowConcealed := 0, windowLimit := x.profile.quality }
    let changed (y : Lane) : State := (s.setLane l y).raise (.lane l .lockChange)
    let ends : Host.Outcome State Fault Refusal := exec (.rateWindowEnd l edges span sinceLoss) s
    (2 ≤ edges → 1 ≤ span → passes → x.port.lock = .locked → (∀ o, x.item = some o → o.dropout = none) →
      ends = .next (s.setLane l { x with port := p })) ∧
    (x.port.lock ≠ .noClock → 2 ≤ edges → 1 ≤ span → x.item = none →
      (¬passes → x.port.lock = .locked → ends = .next (changed { x with port := { p with lock := .mismatch } })) ∧
      (passes → x.port.lock ≠ .locked → ends = .next (changed { x with port := { p with lock := .locked }, detector := Detector.reset, ring := [], eligible := none })) ∧
      (¬passes → x.port.lock ≠ .locked → ends = .next (s.setLane l { x with port := { p with lock := .mismatch } }))) ∧
    (x.port.lock = .noClock → ends = .next s)

/-- The loss and return of lock at an open item. A port that leaves LOCKED, by a window that fails or by the loss of the clock, closes the
item with LOCK_LOST when the grace is 0 and starts the dropout timer otherwise; the timer's end closes it; a relock before that adds a DROPOUT
mark at the loss and sets DISCONTINUOUS. A window's end that carries more milliseconds than the limit comes after the expiry, which closes the item and arms
the next head on the state as it stands before the window is judged; at the limit itself the relock comes first, unless the expiry has come as a command of its own
(log 4). Without a running timer there is no expiry, and a port in NO_CLOCK has no clock to lose (log 2). The model's choices in it besides: LOCK_CHANGE is
raised before the ITEM_CLOSED that it brings (log 11), the eligibility start is absent where the ring does not hold the item's last frame (log 19), and the
reset detector's run start is 0 (log 25). -/
def Obligations.LockLossAndReturn : Prop :=
  ∀ (s : State) (l : LaneId), s.awake = true →
    let x := s.lane l
    let silent : LanePort := { x.port with lock := .noClock, measured := 0, windowConcealed := 0, assembly := .waiting, motion := .unknown }
    let judged (n span : Nat) (lock : LockState) : LanePort :=
      { x.port with lock := lock, measured := measuredRate n span, windowConcealed := 0, windowLimit := x.profile.quality }
    let changed (y : Lane) : State := (s.setLane l y).raise (.lane l .lockChange)
    let lost (p : LanePort) (o : OpenItem) (t : State) : Prop :=
      (x.profile.grace = 0 → (changed { x with port := p }).ItemCloses t l o .lockLost) ∧
      (x.profile.grace ≠ 0 → t = changed { x with port := p, item := some { o with dropout := some ⟨x.profile.grace, o.record.length⟩ } })
    (∀ o, x.port.lock = .locked → x.item = some o → o.dropout = none →
      (∃ t, exec (.clockLoss l) s = .next t ∧ lost silent o t) ∧
      ∀ n span ms, 2 ≤ n → 1 ≤ span → rateWithin x.inUse.rate x.profile.tolerance n span = false →
        ∃ t, exec (.rateWindowEnd l n span ms) s = .next t ∧ lost (judged n span .mismatch) o t) ∧
    (x.item = none → x.port.lock = .locked → exec (.clockLoss l) s = .next (changed { x with port := silent })) ∧
    (x.port.lock = .measuring ∨ x.port.lock = .mismatch → exec (.clockLoss l) s = .next (s.setLane l { x with port := silent })) ∧
    (x.port.lock = .noClock → exec (.clockLoss l) s = .next s) ∧
    (∀ o, x.item = some o → o.dropout ≠ none → ∃ t, exec (.dropoutExpiry l) s = .next t ∧ s.ItemCloses t l o .lockLost) ∧
    ((∀ o, x.item = some o → o.dropout = none) → exec (.dropoutExpiry l) s = .next s) ∧
    ∀ o d n span ms, x.item = some o → o.dropout = some d → x.port.lock = .measuring ∨ x.port.lock = .mismatch → 2 ≤ n → 1 ≤ span →
      (d.limit < ms → ∃ u, exec (.dropoutExpiry l) s = .next u ∧ s.ItemCloses u l o .lockLost ∧
        exec (.rateWindowEnd l n span ms) s = exec (.rateWindowEnd l n span ms) u) ∧
      (ms ≤ d.limit → rateWithin x.inUse.rate x.profile.tolerance n span = false →
        exec (.rateWindowEnd l n span ms) s = .next (s.setLane l { x with port := judged n span .mismatch })) ∧
      (ms ≤ d.limit → rateWithin x.inUse.rate x.profile.tolerance n span = true → ∃ (r : Recording) (ref : MarkRef),
        exec (.rateWindowEnd l n span ms) s = .next (changed { x with
          port := judged n span .locked
          detector := Detector.reset
          ring := []
          eligible := none
          item := some { o with dropout := none, record := { o.record with
            marks := r.marks
            droppedMarks := r.droppedMarks
            flags := { o.record.flags with discontinuous := true, marksTruncated := r.flags.marksTruncated } } } }) ∧
        o.record.MarkRaised r ⟨.dropout, d.offset, o.record.prog d.offset, ms, false, false, o.record.marks.length⟩ ref)

/-- The cue unit: a line that differs from the debounced level starts a debounce of the profile's time, or leaves the one running, and a return
cancels it; the debounce's end moves the level; and a change to active on an enabled lane is used as R28's table gives. With no debounce
running there is no such end (log 2). The model's choices in it besides: the order in which the flags of one step are raised, OVERRUN before ITEM_OPENED before
ITEM_CLOSED (log 11), and an eligibility start that is absent where the ring does not hold the item's last frame (log 19). -/
def Obligations.CueUnit : Prop :=
  ∀ (s : State) (l : LaneId), s.awake = true →
    let x := s.lane l
    let y : Lane := { x with cue := ⟨x.cue.low, x.cue.low, none⟩ }
    let ended : Host.Outcome State Fault Refusal := exec (.cueDebounceEnd l) s
    let edge := x.cue.running ≠ none ∧ x.cue.low = true ∧ x.cue.level = false ∧ x.profile.enabled = true
    (∀ low, exec (.cueLineChange l low) s = .next (s.setLane l { x with cue := ⟨low, x.cue.level,
      if low = x.cue.level then none else some (x.cue.running.getD x.profile.debounce)⟩ })) ∧
    (x.cue.running = none → ended = .next s) ∧
    (x.cue.running ≠ none → ¬edge → ended = .next (s.setLane l y)) ∧
    (edge → x.profile.cueMode = .off → ended = .next (s.setLane l y)) ∧
    (edge → x.profile.cueMode = .startEnd → ∀ o, x.item = some o →
      (o.queued.ends.cue = true → ∃ t, ended = .next t ∧ (s.setLane l y).ItemCloses t l o .cue) ∧
      (o.queued.ends.cue = false → ended = .next (s.setLane l y))) ∧
    (edge → x.profile.cueMode = .startEnd → x.item = none →
      (∀ q rest, x.queue = q :: rest → q.startRule = .cue → x.port.lock = .locked → ∃ t, ended = .next t ∧
        (s.setLane l y).HeadStarts t l q (x.eligibleFrames.drop (x.eligibleFrames.length - q.preroll))) ∧
      ((∀ q rest, x.queue = q :: rest → q.startRule ≠ .cue ∨ x.port.lock ≠ .locked) → ended = .next (s.setLane l y))) ∧
    (edge → x.profile.cueMode = .mark → (x.item = none → ended = .next (s.setLane l y)) ∧
      ∀ o, x.item = some o → ∃ p, ended = .next (s.setLane l { y with item := some p }) ∧
        (o.record.marks.length < 32 → ∃ before behind, o.record.marks = before ++ behind ∧ (∀ m ∈ before, m.offset ≤ o.record.length) ∧
          (∀ m, behind.head? = some m → o.record.length < m.offset) ∧ p = { o with record := { o.record with marks :=
            before ++ ⟨.cue, o.record.length, o.record.prog o.record.length, 0, false, false, o.record.marks.length⟩ :: behind } }) ∧
        (32 ≤ o.record.marks.length → p = { o with record := { o.record with
          droppedMarks := min 65535 (o.record.droppedMarks + 1)
          flags := { o.record.flags with marksTruncated := true } } }))

/-- Each event of a lane has its effect and leaves alone the link, the routes, the command queue, the free pool, the flags of everything else, and the other
lanes but for a buffer granted to one that waits; of a monitor port, all but the frame it plays live from this lane. ITEM_START, ITEM_END and
ITEM_ABANDON of a record found queued or open in a lane leave the same alone, and both ports; where they find none, or a closed one, there is the reply and nothing else. -/
def Obligations.LaneFrame : Prop :=
  (∀ (s : State) (l : LaneId) (c : Instr), s.awake = true →
    (∃ slot, c = .arrivingFrame l slot) ∨ (∃ slot, c = .injectionCountdownEnd l slot) ∨ (∃ slot, c = .detectorWindowEnd l slot) ∨
      (∃ n span ms, c = .rateWindowEnd l n span ms) ∨ c = .clockLoss l ∨ c = .dropoutExpiry l ∨ (∃ low, c = .cueLineChange l low) ∨
      c = .cueDebounceEnd l →
    ∃ t, exec c s = .next t ∧ s.Aside t l ∧ t.cmd = s.cmd ∧
      ∀ id, t.monitor id = { s.monitor id with live := (t.monitor id).live } ∧
        ((s.monitor id).source ≠ .lane l → t.monitor id = s.monitor id)) ∧
  ∀ row ∈ commandTable, row.1 ∈ [.itemStart, .itemEnd, .itemAbandon] →
    ∀ (s : State) (cmd : Command), s.ready cmd = true → cmd.code = row.2.1 →
      let found := s.find (BitVec.ofNat 32 (field cmd.params 0 4))
      ∃ t, exec row.1 s = .next t ∧
        (∀ l, (∃ n q, found = some (.queued l n q)) ∨ (∃ o, found = some (.opened l o)) → s.Aside t l ∧ t.monA = s.monA ∧ t.monB = s.monB) ∧
        (found = none ∨ (∃ r, found = some (.closed r)) → ∃ status, t = s.answered cmd status)

/-! ### The item commands -/

/-- ITEM_QUEUE after the lane test: its refusals in order, each leaving every record where it is; and the acceptance: a free record whose
trailer place is free joins the tail of the lane's queue with the queueing part given, the lane is armed when the record is the head of a lane with
an empty open slot, and the result is its position. -/
def Obligations.ItemQueue : Prop :=
  ∀ s tag ps (l : LaneId), s.ready ⟨tag, 0x30, ps⟩ = true → 15 ≤ ps.length → ps.length = 15 + field ps 14 1 → field ps 0 1 = l.val →
    let x := s.lane l
    let item : Item := BitVec.ofNat 32 (field ps 1 4)
    let answer (status : Status) : Prop := exec .itemQueue s = .next (s.answered ⟨tag, 0x30, ps⟩ status)
    (x.profile.enabled = false → answer .laneOff) ∧
    (x.profile.enabled = true → ¬itemQueueFields ps → answer .badParam) ∧
    (x.profile.enabled = true → itemQueueFields ps → item ∈ s.numbers → answer .duplicate) ∧
    (x.profile.enabled = true → itemQueueFields ps → item ∉ s.numbers → (∀ r ∈ s.table.pool, s.placeHeld r = true) → answer .tableFull) ∧
    (x.profile.enabled = true → itemQueueFields ps → item ∉ s.numbers → ∀ r ∈ s.table.pool, s.placeHeld r = false →
      (16 ≤ x.queue.length → answer .queueFull) ∧
      (x.queue.length < 16 → ∃ q : Queued, q.record ∈ s.table.pool ∧ s.placeHeld q.record = false ∧ q.item = item ∧
        q.startRule.code = field ps 5 1 ∧ q.ends.code = field ps 6 1 ∧ q.target = field ps 7 5 ∧ q.preroll = field ps 12 2 ∧
        q.label = ps.drop 15 ∧
        exec .itemQueue s = .next ((({ s with table := { s.table with pool := s.table.pool.erase q.record } } : State).setLane l
          { x with
            queue := x.queue ++ [q]
            baseline := if x.queue = [] ∧ x.item = none then some ⟨x.cue.level, x.detector.state, x.port.motion⟩ else x.baseline }).answered
          ⟨tag, 0x30, ps⟩ .ok (be 1 x.queue.length))))

/-- ITEM_WITHDRAW of a queued record: it leaves its queue from its position, the records behind it moving up, and returns to the free pool;
a withdrawn head with an empty open slot and a follower arms the lane afresh. The result is the lane and the position. ITEM_RELEASE of a CLOSED
record: it leaves the closed list at its position, the others keeping their order, and returns to the pool. That a freed record joins the
end of the pool is the model's choice (log 10): which record is free cannot be observed. -/
def Obligations.RecordsFreed : Prop :=
  (∀ s tag ps (l : LaneId) n (q : Queued), s.ready ⟨tag, 0x31, ps⟩ = true → ps.length = 4 → s.NumbersUnique →
    (s.lane l).queue[n]? = some q → q.item = BitVec.ofNat 32 (field ps 0 4) →
    let x := s.lane l
    exec .itemWithdraw s = .next ((({ s with table := { s.table with pool := s.table.pool ++ [q.record] } } : State).setLane l
      { x with
        queue := x.queue.eraseIdx n
        baseline := if n = 0 ∧ x.item = none ∧ 2 ≤ x.queue.length then
          some ⟨x.cue.level, x.detector.state, x.port.motion⟩ else x.baseline }).answered ⟨tag, 0x31, ps⟩ .ok (be 1 l.val ++ be 1 n))) ∧
  ∀ s tag ps before (c : ClosedRecord) behind, s.ready ⟨tag, 0x37, ps⟩ = true → ps.length = 4 → s.NumbersUnique →
    s.table.closed = before ++ c :: behind → c.queued.item = BitVec.ofNat 32 (field ps 0 4) →
    exec .itemRelease s = .next (({ s with table :=
      { closed := before ++ behind, pool := s.table.pool ++ [c.queued.record] } } : State).answered ⟨tag, 0x37, ps⟩ .ok)

/-- An item number that no non-FREE record carries, and a record found in a state that the command does not accept, are refused and nothing
else happens. -/
def Obligations.ItemNumberRefusals : Prop :=
  ∀ row ∈ commandTable, row.1 ∈ [.itemWithdraw, .itemStart, .itemEnd, .itemAbandon, .itemMark, .itemRead, .itemRelease] →
    ∀ s c, s.ready c = true → c.code = row.2.1 → c.params.length = row.2.2 → (row.1 = .itemMark → field c.params 4 4 ≤ 65535) →
      let item : Item := BitVec.ofNat 32 (field c.params 0 4)
      let answer (status : Status) : Prop := exec row.1 s = .next (s.answered c status)
      (item ∉ s.numbers → answer .unknownItem) ∧
      (s.NumbersUnique → ∀ l q, q ∈ (s.lane l).queue → q.item = item →
        row.1 ∈ [.itemEnd, .itemAbandon, .itemMark, .itemRelease] → answer .wrongState) ∧
      (s.NumbersUnique → ∀ l q, q ∈ (s.lane l).queue → q.item = item → row.1 = .itemStart →
        (s.lane l).queue.head? ≠ some q ∨ (s.lane l).item ≠ none → answer .wrongState) ∧
      (s.NumbersUnique → ∀ l o, (s.lane l).item = some o → o.queued.item = item →
        row.1 ∈ [.itemWithdraw, .itemStart, .itemRelease] → answer .wrongState) ∧
      (s.NumbersUnique → ∀ r ∈ s.table.closed, r.queued.item = item →
        row.1 ∈ [.itemWithdraw, .itemStart, .itemEnd, .itemAbandon, .itemMark] → answer .wrongState)

/-- ITEM_START of the head of an ARMED lane: refused while the port is not LOCKED; otherwise the item opens at once, whatever its start rule,
and the result is the lane, the start position and the number of pre-roll frames. An item whose pre-roll alone reaches its LENGTH target closes at
its opening instant, with LENGTH. The model's choices in it: the order in which the flags of the step are raised, OVERRUN before ITEM_OPENED before ITEM_CLOSED
(log 11), and an eligibility start that is absent where the ring does not hold the item's last frame (log 19). -/
def Obligations.ItemStart : Prop :=
  ∀ s tag ps (l : LaneId) (q : Queued), s.ready ⟨tag, 0x32, ps⟩ = true → ps.length = 4 → s.NumbersUnique →
    (s.lane l).queue.head? = some q → q.item = BitVec.ofNat 32 (field ps 0 4) → (s.lane l).profile.enabled = true → (s.lane l).item = none →
    let x := s.lane l
    (x.port.lock ≠ .locked → exec .itemStart s = .next (s.answered ⟨tag, 0x32, ps⟩ .notLocked)) ∧
    (x.port.lock = .locked → (q.ends.length = true → x.prerollTime (x.preroll q) < q.target) →
      ∃ t, s.ItemOpens t l q ∧ exec .itemStart s = .next (t.answered ⟨tag, 0x32, ps⟩ .ok
        (be 1 l.val ++ be 6 (x.port.counter - BitVec.ofNat 48 (x.preroll q)).toNat ++ be 2 (x.preroll q)))) ∧
    (x.port.lock = .locked → q.ends.length = true → q.target ≤ x.prerollTime (x.preroll q) →
      (∃ t u p, s.ItemOpens u l q ∧ (u.lane l).item = some p ∧ u.ItemCloses t l p .length ∧ exec .itemStart s = .next (t.answered ⟨tag, 0x32, ps⟩ .ok
        (be 1 l.val ++ be 6 (x.port.counter - BitVec.ofNat 48 (x.preroll q)).toNat ++ be 2 (x.preroll q)))) ∧
      ∃ t c, exec .itemStart s = .next t ∧ (t.lane l).item = none ∧ (t.lane l).queue = x.queue.drop 1 ∧
        t.table.closed = s.table.closed ++ [c] ∧ c.queued = q ∧ c.lane = l ∧ c.reason = .length ∧
        c.record.length = x.preroll q ∧ t.events.isSet (.lane l .itemOpened) = true ∧ t.events.isSet (.lane l .itemClosed) = true)

/-- ITEM_END and ITEM_ABANDON of an open item close it, with COMMAND or with ABANDONED and its flag, and return its final length and
programme length. That the eligibility start is absent where the ring does not hold the item's last frame is the model's choice (log 19). -/
def Obligations.ItemEndAbandon : Prop :=
  ∀ s tag ps (l : LaneId) (o : OpenItem), ps.length = 4 → s.NumbersUnique → (s.lane l).item = some o →
    o.queued.item = BitVec.ofNat 32 (field ps 0 4) →
    (s.ready ⟨tag, 0x33, ps⟩ = true → ∃ t, s.ItemCloses t l o .command ∧ exec .itemEnd s = .next (t.answered ⟨tag, 0x33, ps⟩ .ok
      (be 5 o.record.length ++ be 6 o.record.programme))) ∧
    (s.ready ⟨tag, 0x34, ps⟩ = true → ∃ t, s.ItemCloses t l o .abandoned ∧ exec .itemAbandon s = .next (t.answered ⟨tag, 0x34, ps⟩ .ok
      (be 5 o.record.length ++ be 6 o.record.programme)))

/-- ITEM_MARK puts an OPERATOR mark at the open item's length: stored behind every mark whose offset is not greater, its position returned;
or dropped and counted when the list is full, the count returned. A code above 65,535 is refused. That the position and the count each stand behind a
presence byte is the model's choice (log 12). -/
def Obligations.ItemMark : Prop :=
  ∀ s tag ps, s.ready ⟨tag, 0x35, ps⟩ = true → ps.length = 8 →
    (65535 < field ps 4 4 → exec .itemMark s = .next (s.answered ⟨tag, 0x35, ps⟩ .badParam)) ∧
    ∀ (l : LaneId) (o : OpenItem), field ps 4 4 ≤ 65535 → s.NumbersUnique → (s.lane l).item = some o →
      o.queued.item = BitVec.ofNat 32 (field ps 0 4) → (∀ m ∈ o.record.marks, m.serial < o.record.marks.length) →
      let r := o.record
      let written (r : Recording) : State := s.setLane l { s.lane l with item := some { o with record := r } }
      (r.marks.length < 32 → ∃ before behind, r.marks = before ++ behind ∧ (∀ m ∈ before, m.offset ≤ r.length) ∧
        (∀ m, behind.head? = some m → r.length < m.offset) ∧
        exec .itemMark s = .next ((written { r with marks :=
            before ++ ⟨.operator, r.length, r.prog r.length, field ps 4 4, false, false, r.marks.length⟩ :: behind }).answered
          ⟨tag, 0x35, ps⟩ .ok (be 5 r.length ++ be 6 (r.prog r.length) ++ [0] ++ 1 :: be 1 before.length ++ [0, 0, 0]))) ∧
      (32 ≤ r.marks.length → exec .itemMark s = .next ((written { r with
          droppedMarks := min 65535 (r.droppedMarks + 1)
          flags := { r.flags with marksTruncated := true } }).answered
        ⟨tag, 0x35, ps⟩ .ok (be 5 r.length ++ be 6 (r.prog r.length) ++ [1] ++ [0, 0] ++ 1 :: be 2 (min 65535 (r.droppedMarks + 1)))))

/-- ITEM_READ returns the record in R178's order, its state byte first and no recording part while it is QUEUED; TABLE_STATUS returns each lane's
transfer state, open item and queue, then the closed list and the free count. Neither changes anything. The presence byte of an open item and the count
before each list of TABLE_STATUS are the model's choice (log 12). -/
def Obligations.TableReads : Prop :=
  ∀ s : State,
    let queued (state : Byte) (q : Queued) (l : LaneId) : List Byte := [state] ++ be 4 q.item.toNat ++ be 1 l.val ++
      be 1 q.startRule.code ++ be 1 q.ends.code ++ be 5 (if q.ends.length = true then q.target else 0) ++ be 2 q.preroll ++
      be 1 q.label.length ++ q.label
    let recorded (r : Recording) (reason : Nat) : List Byte := be 2 r.deck.toNat ++ be 1 r.rate.val ++ be 1 r.channels.count ++
      be 6 r.start.toNat ++ be 5 r.length ++ be 6 r.programme ++ be 2 r.droppedMarks ++ be 3 r.peakA ++ be 3 r.peakB ++
      be 4 r.concealed ++ be 4 r.lost ++ be 4 r.overloads ++ be 4 r.blocks ++ be 4 (r.crc ^^^ 0xFFFFFFFF#32).toNat ++ be 1 r.flags.code ++
      be 1 reason ++ be 1 r.segments.length ++
      r.segments.flatMap (fun g => be 5 g.start ++ be 2 g.ratio.p ++ be 2 g.ratio.q ++ be 6 g.programme) ++ be 1 r.marks.length ++
      r.marks.flatMap fun m => be 1 m.kind.code ++ be 5 m.offset ++ be 6 m.programme ++ be 5 m.extent ++
        be 1 ((if m.chA = true then 1 else 0) + if m.chB = true then 2 else 0)
    (∀ tag ps, s.ready ⟨tag, 0x36, ps⟩ = true → ps.length = 4 → s.NumbersUnique →
      let item : Item := BitVec.ofNat 32 (field ps 0 4)
      let reads (bytes : List Byte) : Prop := exec .itemRead s = .next (s.answered ⟨tag, 0x36, ps⟩ .ok bytes)
      (∀ l q, q ∈ (s.lane l).queue → q.item = item → reads (queued 1 q l)) ∧
      (∀ l o, (s.lane l).item = some o → o.queued.item = item → reads (queued 2 o.queued l ++ recorded o.record 0)) ∧
      (∀ c ∈ s.table.closed, c.queued.item = item → reads (queued 3 c.queued c.lane ++ recorded c.record c.reason.code))) ∧
    ∀ tag, s.ready ⟨tag, 0x38, []⟩ = true →
      exec .tableStatus s = .next (s.answered ⟨tag, 0x38, []⟩ .ok
        ((List.finRange 8).flatMap (fun l => be 1 (s.lane l).transfer.code ++
            (match (s.lane l).item with
              | some o => 1 :: be 4 o.queued.item.toNat
              | none => [0, 0, 0, 0, 0]) ++
            be 1 (s.lane l).queue.length ++ (s.lane l).queue.flatMap fun q => be 4 q.item.toNat) ++
          be 1 s.table.closed.length ++
          s.table.closed.flatMap (fun c => be 4 c.queued.item.toNat ++ be 1 c.lane.val ++ be 1 c.reason.code) ++
          be 1 s.table.pool.length))

/-! ### The recall unit -/

/-- ROUTE_SET: its refusals in order, none changing a route; and the acceptance: the lowest-numbered FREE route, WAITING, as R133 fills it,
its number the result. -/
def Obligations.RouteSet : Prop :=
  ∀ s tag ps, s.ready ⟨tag, 0x40, ps⟩ = true → ps.length = 12 →
    let item : Item := BitVec.ofNat 32 (field ps 0 4)
    let answer (status : Status) : Prop := exec .routeSet s = .next (s.answered ⟨tag, 0x40, ps⟩ status)
    let held := ∃ r t, s.route r = some t ∧ t.item = item
    let busy := field ps 4 1 ≠ 2 ∧ ∃ r t, s.route r = some t ∧ t.sink.code = field ps 4 1 ∧ (t.state = .waiting ∨ t.state = .receiving)
    (¬routeSetFields ps → answer .badParam) ∧
    (routeSetFields ps → (∀ r, s.route r ≠ none) → answer .routesFull) ∧
    ∀ r, routeSetFields ps → s.route r = none → (∀ q, q < r → s.route q ≠ none) →
      (held → answer .duplicate) ∧ (¬held → busy → answer .sinkBusy) ∧
      (¬held → ¬busy → ∃ t : Route, t.item = item ∧ t.sink.code = field ps 4 1 ∧ t.idleLimit = field ps 5 2 ∧
        t.expected = (if field ps 7 1 = 1 then some (BitVec.ofNat 32 (field ps 8 4)) else none) ∧ t.state = .waiting ∧ t.next = 0 ∧
        t.crc = 0xFFFFFFFF#32 ∧ t.frames = 0 ∧ t.blocks = 0 ∧ t.gaps = 0 ∧ t.badChecks = 0 ∧ t.discarded = 0 ∧ t.duplicates = 0 ∧
        t.late = 0 ∧ t.format = none ∧ t.trailer = none ∧ t.cause = none ∧
        exec .routeSet s = .next ((s.setRoute r (some t)).answered ⟨tag, 0x40, ps⟩ .ok (be 1 r.val)))

/-- ROUTE_CLEAR: refused for a number beyond 15 and for a FREE route; otherwise the route is FREE, its route-done flag clear, and the monitor
port of its sink flushed when the port's reference names the route (log 16); the result is the state and the cause it had, an absent cause as code 0
without a presence byte, which is the model's choice (log 12). -/
def Obligations.RouteClear : Prop :=
  ∀ s tag ps, s.ready ⟨tag, 0x41, ps⟩ = true → ps.length = 1 →
    (16 ≤ field ps 0 1 → exec .routeClear s = .next (s.answered ⟨tag, 0x41, ps⟩ .badParam)) ∧
    ∀ r : RouteId, field ps 0 1 = r.val →
      (s.route r = none → exec .routeClear s = .next (s.answered ⟨tag, 0x41, ps⟩ .unknownRoute)) ∧
      ∀ t, s.route r = some t → ∃ u : State, exec .routeClear s = .next (u.answered ⟨tag, 0x41, ps⟩ .ok
          (be 1 t.state.code ++ be 1 (causeCode t.cause))) ∧
        u.route r = none ∧ (∀ q, q ≠ r → u.route q = s.route q) ∧
        (∀ f, u.events.isSet f = (s.events.isSet f && f != .routeDone r)) ∧ u.events.notices = s.events.notices ∧
        u.events.mask = s.events.mask ∧
        (∀ id, u.monitor id =
          let m := s.monitor id
          if t.sink.port = some id ∧ m.ref.map RouteRef.route = some r then
            { m with fifo := [], ref := none, pace := .go, state := if m.source = .routed then .silent else m.state }
          else m) ∧
        u.lanes = s.lanes ∧ u.table = s.table ∧ u.memory = s.memory ∧ u.rx = s.rx ∧ u.cmd = s.cmd ∧
        u.tx = { s.tx with paceReady := u.tx.paceReady } ∧
        (u.tx.paceReady = true ↔ s.tx.paceReady = true ∨ ∃ id, (u.monitor id).pace ≠ (s.monitor id).pace)

/-- ROUTE_READ of a route number 0..15 returns the route's state and every field present in it, the digest with the final exclusive-or
applied and a FREE route as its number and state alone; a number beyond 15 is refused; nothing changes. -/
def Obligations.RouteRead : Prop :=
  ∀ s tag ps, s.ready ⟨tag, 0x42, ps⟩ = true → ps.length = 1 →
    (16 ≤ field ps 0 1 → exec .routeRead s = .next (s.answered ⟨tag, 0x42, ps⟩ .badParam)) ∧
    ∀ r : RouteId, field ps 0 1 = r.val →
      (s.route r = none → exec .routeRead s = .next (s.answered ⟨tag, 0x42, ps⟩ .ok (be 1 r.val ++ [0]))) ∧
      ∀ t, s.route r = some t → exec .routeRead s = .next (s.answered ⟨tag, 0x42, ps⟩ .ok
        (be 1 r.val ++ be 1 t.state.code ++ be 4 t.item.toNat ++ be 1 t.sink.code ++
          (match t.expected with
            | some d => 1 :: be 4 d.toNat
            | none => [0, 0, 0, 0, 0]) ++
          be 2 t.idleLimit ++ be 4 t.next ++ be 4 (t.crc ^^^ 0xFFFFFFFF#32).toNat ++ be 5 t.frames ++ be 4 t.blocks ++ be 4 t.gaps ++
          be 4 t.badChecks ++ be 4 t.discarded ++ be 4 t.duplicates ++ be 4 t.late ++
          (match t.format with
            | some f => 1 :: be 1 f.rate.val ++ be 1 f.channels.count
            | none => [0, 0, 0]) ++
          be 1 (causeCode t.cause) ++
          (match t.trailer with
            | some tr => 1 :: be 5 tr.length.toNat ++ be 6 tr.programme.toNat ++ be 4 tr.lost.toNat ++ be 4 tr.concealed.toNat ++
                be 4 tr.digest.toNat ++ [tr.reason, tr.flags, tr.segments]
            | none => List.replicate 27 0)))

/-- A RECALL packet that is not accepted: unrouted, late, a duplicate, or discarded with a fault (CHECK, FORMAT, OVERFLOW) short of LAST. A
packet whose item no route carries raises RECALL_UNROUTED; each of the others moves its route's counters and nothing else. -/
def Obligations.RecallTurnedAway : Prop :=
  ∀ (s : State) (p : RecallPacket), s.receiving = true → p.wf = true →
    let counted : State := s.count fun n => { n with recalls := min 4294967295 (n.recalls + 1) }
    let becomes (u : State) : Prop := exec (.recallPacket p) s = .next u
    let up (n : Nat) : Nat := min 4294967295 (n + 1)
    ((∀ r t, s.route r = some t → t.item ≠ p.item) → becomes (counted.raise (.device .recallUnrouted) p.item)) ∧
    ∀ r t, s.route r = some t → t.item = p.item → (∀ q u, s.route q = some u → u.item = p.item → q = r) →
      let fault (t : Route) (c : Cause) : Route := { t with gaps := up t.gaps, cause := some (t.cause.getD c) }
      let moved (t : Route) : Route :=
        let t := if t.next < p.seq.toNat then fault t .gap else t
        let t := { t with next := p.seq.toNat + 1 }
        if p.flags.getLsbD 0 = (p.seq == 0) then t else fault t .gap
      (t.state ≠ .waiting → t.state ≠ .receiving → becomes (counted.setRoute r (some { t with late := up t.late }))) ∧
      (t.state = .waiting ∨ t.state = .receiving →
        (¬p.Consistent → p.flags.getLsbD 1 = false → becomes (counted.setRoute r (some
          (fault { t with badChecks := up t.badChecks, discarded := up t.discarded } .check)))) ∧
        (p.Consistent → p.seq.toNat < t.next → becomes (counted.setRoute r (some { t with duplicates := up t.duplicates }))) ∧
        (p.Consistent → t.next ≤ p.seq.toNat → p.flags.getLsbD 1 = false →
          (∀ f, t.format = some f → f.rate.val ≠ p.rate.toNat ∨ f.channels.count ≠ p.channels.toNat →
            becomes (counted.setRoute r (some (fault { moved t with discarded := up t.discarded } .format)))) ∧
          ((∀ f, t.format = some f → f.rate.val = p.rate.toNat ∧ f.channels.count = p.channels.toNat) →
            ∀ id, t.sink.port = some id → (s.monitor id).source = .routed → p.frames.toNat ≠ 0 →
            (((s.monitor id).ref = none ∨ (s.monitor id).ref.map RouteRef.route = some r) ∧
              8192 < (s.monitor id).fifo.length + p.frames.toNat) →
            becomes (counted.setRoute r (some (fault { moved t with discarded := up t.discarded } .overflow))))))

/-- An accepted RECALL packet short of LAST: the sequence and FIRST tests, the digest, the counts, the format of the first accepted packet, and
RECEIVING. When its sink is a ROUTED monitor the frames of its payload go to the FIFO: behind those of the same route, or as the first of the route after a
flush; 2048 frames start the playing and 6144 bring the pace to HOLD. A changed pace state makes a PACE ready. -/
def Obligations.RecallAccepted : Prop :=
  ∀ (s : State) (p : RecallPacket) r t, s.receiving = true → p.wf = true → p.Consistent → s.route r = some t → t.item = p.item →
    (∀ q u, s.route q = some u → u.item = p.item → q = r) → t.state = .waiting ∨ t.state = .receiving → t.next ≤ p.seq.toNat →
    p.flags.getLsbD 1 = false → (∀ f, t.format = some f → f.rate.val = p.rate.toNat ∧ f.channels.count = p.channels.toNat) →
    (∀ id, t.sink.port = some id → (s.monitor id).source = .routed →
      (s.monitor id).ref = none ∨ (s.monitor id).ref.map RouteRef.route = some r → (s.monitor id).fifo.length + p.frames.toNat ≤ 8192) →
    let jump := if t.next < p.seq.toNat then 1 else 0
    let first := if p.flags.getLsbD 0 = (p.seq == 0) then 0 else 1
    ∃ (u : State) (t' : Route) (f : Format), exec (.recallPacket p) s = .next u ∧ u.route r = some t' ∧ (∀ q, q ≠ r → u.route q = s.route q) ∧
      t'.item = t.item ∧ t'.sink = t.sink ∧ t'.expected = t.expected ∧ t'.idleLimit = t.idleLimit ∧ t'.state = .receiving ∧
      t'.next = p.seq.toNat + 1 ∧ t'.crc = crc32 t.crc p.payload ∧ t'.frames = min 1099511627775 (t.frames + p.frames.toNat) ∧
      t'.blocks = min 4294967295 (t.blocks + 1) ∧ (jump + first = 0 → t'.gaps = t.gaps ∧ t'.cause = t.cause) ∧
      (jump + first ≠ 0 → t.gaps + 2 ≤ 4294967295 → t'.gaps = t.gaps + jump + first) ∧
      (jump + first ≠ 0 → t'.cause = some (t.cause.getD .gap)) ∧ t'.badChecks = t.badChecks ∧ t'.discarded = t.discarded ∧
      t'.duplicates = t.duplicates ∧ t'.late = t.late ∧ t'.trailer = t.trailer ∧
      t'.format = some f ∧ f.rate.val = p.rate.toNat ∧ f.channels.count = p.channels.toNat ∧
      (payloadFrames f.channels p.payload).length = p.frames.toNat ∧
      (∀ id, t.sink.port ≠ some id ∨ (s.monitor id).source ≠ .routed → u.monitor id = s.monitor id) ∧
      (∀ id, t.sink.port = some id → (s.monitor id).source = .routed →
        (s.monitor id).Appends (u.monitor id) r f (payloadFrames f.channels p.payload)) ∧
      u.tx = { s.tx with
        paceReady := s.tx.paceReady || u.monA.pace != s.monA.pace || u.monB.pace != s.monB.pace
        stats := { s.tx.stats with recalls := min 4294967295 (s.tx.stats.recalls + 1) } } ∧
      u.lanes = s.lanes ∧ u.table = s.table ∧ u.memory = s.memory ∧ u.events = s.events ∧ u.cmd = s.cmd ∧ u.rx = s.rx

/-- The outcome of a recall. A LAST packet that is accepted passes the sequence and FIRST tests, joins the digest and the counts, has its frames appended where its
sink is a ROUTED monitor, and decides the outcome by R143's table, a gap or a FIRST fault that it brings itself making it INCOMPLETE; a LAST
packet discarded by the block record check, by its format or for want of room leaves it INCOMPLETE, its trailer kept when the check was passed; the idle limit of a
RECEIVING route makes it INCOMPLETE with TIMEOUT. Each sets the route-done flag and tells a ROUTED monitor of its sink that the route is final. A route whose timer
does not run has no timeout (log 2). -/
def Obligations.RecallOutcome : Prop :=
  (∀ (s : State) (p : RecallPacket) r t, s.receiving = true → p.wf = true → s.route r = some t → t.item = p.item →
    (∀ q u, s.route q = some u → u.item = p.item → q = r) → t.state = .waiting ∨ t.state = .receiving → p.flags.getLsbD 1 = true →
    let up (n : Nat) : Nat := min 4294967295 (n + 1)
    let fault (t : Route) (c : Cause) : Route := { t with gaps := up t.gaps, cause := some (t.cause.getD c) }
    let moved : Route :=
      let t := if t.next < p.seq.toNat then fault t .gap else t
      let t := { t with next := p.seq.toNat + 1 }
      if p.flags.getLsbD 0 = (p.seq == 0) then t else fault t .gap
    let counted : LinkStats := { s.tx.stats with recalls := up s.tx.stats.recalls }
    let reaches (u : State) : Prop := exec (.recallPacket p) s = .next u ∧ u.events = (s.raise (.routeDone r)).events ∧
      u.events.isSet (.routeDone r) = true ∧ (∀ q, q ≠ r → u.route q = s.route q) ∧ u.lanes = s.lanes ∧ u.table = s.table ∧
      u.memory = s.memory ∧ u.cmd = s.cmd ∧ u.rx = s.rx ∧ ∀ id, t.sink.port ≠ some id ∨ (s.monitor id).source ≠ .routed → u.monitor id = s.monitor id
    let ends (t' : Route) : Prop := ∃ u, reaches u ∧ u.route r = some { t' with state := .incomplete } ∧ u.tx = { s.tx with stats := counted } ∧
      ∀ id, t.sink.port = some id → (s.monitor id).ToldFinal (u.monitor id) r
    (p.Consistent → t.next ≤ p.seq.toNat → ∀ tr, p.trailer = some tr →
      (∀ f, t.format = some f → f.rate.val = p.rate.toNat ∧ f.channels.count = p.channels.toNat) →
      (∀ id, t.sink.port = some id → (s.monitor id).source = .routed → p.frames ≠ 0 →
        (s.monitor id).ref = none ∨ (s.monitor id).ref.map RouteRef.route = some r → (s.monitor id).fifo.length + p.frames.toNat ≤ 8192) →
      ∃ (u : State) (state : RouteState) (cause : Option Cause) (f : Format), reaches u ∧
        f.rate.val = p.rate.toNat ∧ f.channels.count = p.channels.toNat ∧
        (let digest := crc32 t.crc p.payload ^^^ 0xFFFFFFFF#32
        let frames := min 1099511627775 (t.frames + p.frames.toNat)
        let whole := frames = tr.length.toNat - tr.lost.toNat
        u.route r = some { moved with
          crc := crc32 t.crc p.payload
          frames := frames
          blocks := up t.blocks
          format := some f
          trailer := some tr
          state := state
          cause := cause } ∧
        (moved.gaps ≠ 0 → state = .incomplete ∧ cause = moved.cause) ∧
        (moved.gaps = 0 → ¬whole → state = .incomplete ∧ cause = some .count) ∧
        (moved.gaps = 0 → whole → digest ≠ tr.digest → state = .mismatch ∧ cause = some .digest) ∧
        (moved.gaps = 0 → whole → digest = tr.digest → (∃ d, t.expected = some d ∧ d ≠ digest) →
          state = .mismatch ∧ cause = some .expected) ∧
        (moved.gaps = 0 → whole → digest = tr.digest → (∀ d, t.expected = some d → d = digest) →
          state = .verified ∧ cause = none)) ∧
        u.tx = { s.tx with
          paceReady := s.tx.paceReady || u.monA.pace != s.monA.pace || u.monB.pace != s.monB.pace
          stats := counted } ∧
        ∀ id, t.sink.port = some id → (s.monitor id).source = .routed → ∃ m,
          (s.monitor id).Appends m r f (payloadFrames f.channels p.payload) ∧ m.ToldFinal (u.monitor id) r) ∧
    (¬p.Consistent → ends (fault { t with badChecks := up t.badChecks, discarded := up t.discarded } .check)) ∧
    (p.Consistent → t.next ≤ p.seq.toNat →
      (∀ f, t.format = some f → f.rate.val ≠ p.rate.toNat ∨ f.channels.count ≠ p.channels.toNat →
        ends (fault { moved with discarded := up t.discarded, trailer := p.trailer } .format)) ∧
      ((∀ f, t.format = some f → f.rate.val = p.rate.toNat ∧ f.channels.count = p.channels.toNat) →
        ∀ id, t.sink.port = some id → (s.monitor id).source = .routed → p.frames.toNat ≠ 0 →
        (((s.monitor id).ref = none ∨ (s.monitor id).ref.map RouteRef.route = some r) ∧
          8192 < (s.monitor id).fifo.length + p.frames.toNat) →
        ends (fault { moved with discarded := up t.discarded, trailer := p.trailer } .overflow)))) ∧
  (∀ (s : State) r t, s.awake = true → s.route r = some t →
    (t.state = .receiving → t.idleLimit ≠ 0 → ∃ u, exec (.routeIdleTimeout r) s = .next u ∧
      u.route r = some { t with state := .incomplete, cause := some .timeout } ∧ u.events.isSet (.routeDone r) = true ∧
      (∀ q, q ≠ r → u.route q = s.route q) ∧ u.lanes = s.lanes ∧ u.table = s.table ∧ u.memory = s.memory ∧
      (∀ id, t.sink.port ≠ some id → u.monitor id = s.monitor id) ∧
      ∀ id, t.sink.port = some id → (s.monitor id).ToldFinal (u.monitor id) r) ∧
    (t.state ≠ .receiving ∨ t.idleLimit = 0 → exec (.routeIdleTimeout r) s = .next s)) ∧
  ∀ (s : State) r, s.awake = true → s.route r = none → exec (.routeIdleTimeout r) s = .next s

/-! ### The monitor ports -/

/-- MONITOR_SELECT: the port and the source are tested first and the lane only for LANE; an accepted one flushes the FIFO, makes the
reference absent, takes the source, goes to SILENT or LIVE and brings the pace to GO; the frame last delivered stays when the source in force is selected
again, and is absent otherwise (log 9). The result is the source replaced, as two bytes (log 12), and the frames discarded. -/
def Obligations.MonitorSelect : Prop :=
  ∀ s tag ps, s.ready ⟨tag, 0x50, ps⟩ = true → ps.length = 3 →
    (2 ≤ field ps 0 1 ∨ 3 ≤ field ps 1 1 → exec .monitorSelect s = .next (s.answered ⟨tag, 0x50, ps⟩ .badParam)) ∧
    (field ps 0 1 < 2 → field ps 1 1 = 1 → 8 ≤ field ps 2 1 → exec .monitorSelect s = .next (s.answered ⟨tag, 0x50, ps⟩ .badLane)) ∧
    ∀ id source state, (id = .a ∧ field ps 0 1 = 0 ∨ id = .b ∧ field ps 0 1 = 1) →
      (source = .none ∧ state = .silent ∧ field ps 1 1 = 0 ∨ source = .routed ∧ state = .silent ∧ field ps 1 1 = 2 ∨
        ∃ l : LaneId, source = .lane l ∧ state = .live ∧ field ps 1 1 = 1 ∧ field ps 2 1 = l.val) →
      let m := s.monitor id
      exec .monitorSelect s = .next ((s.setMonitor id
          { m with
            source := source
            state := state
            fifo := []
            ref := none
            pace := .go
            live := if m.source = source then m.live else none }).answered ⟨tag, 0x50, ps⟩ .ok
        ((match m.source with
          | .none => [0, 0]
          | .lane l => 1 :: be 1 l.val
          | .routed => [2, 0]) ++ be 2 m.fifo.length))

/-- MONITOR_STATUS names a monitor port, A or B, and returns its state at one point; it is refused for any other port; it clears the underrun
counter and changes nothing else. The source as two bytes and the presence byte of the reference are the model's choice (log 12), and the rate shown is the
one that R148 gives for the present state (log 21). -/
def Obligations.MonitorStatus : Prop :=
  ∀ s tag ps, s.ready ⟨tag, 0x51, ps⟩ = true → ps.length = 1 →
    (2 ≤ field ps 0 1 → exec .monitorStatus s = .next (s.answered ⟨tag, 0x51, ps⟩ .badParam)) ∧
    ∀ id, (id = .a ∧ field ps 0 1 = 0 ∨ id = .b ∧ field ps 0 1 = 1) →
      let m := s.monitor id
      exec .monitorStatus s = .next ((s.setMonitor id { m with underruns := 0 }).answered ⟨tag, 0x51, ps⟩ .ok
        ((match m.source with
          | .none => [0, 0]
          | .lane l => 1 :: be 1 l.val
          | .routed => [2, 0]) ++
          be 1 m.state.code ++ be 1 (s.outputRate m).val ++ be 2 m.fifo.length ++
          (match m.ref with
            | some f => 1 :: be 1 f.route.val ++ be 1 f.format.rate.val ++ be 1 f.format.channels.count ++ [if f.final = true then 1 else 0]
            | none => [0, 0, 0, 0, 0]) ++
          be 1 m.pace.code ++ be 4 m.underruns))

/-- One output frame of a port: by R148's table zeros, the lane's last frame delivered or zeros while it is not LOCKED, or the frame at the head of
the FIFO, a one-channel frame on both outputs; by R152's table what the port becomes; by R154 the pace; and the rate of the frame played. A LIVE port
that has had no frame since another source was replaced by its lane plays a free value, said here of no sample (log 9). -/
def Obligations.MonitorOutput : Prop :=
  ∀ (s : State) (id : MonitorId), s.awake = true →
    let m := s.monitor id
    let becomes (n : Monitor) : Prop := exec (.monitorOutputFrame id) s = .next (s.setMonitor id n)
    (m.state = .silent → becomes { m with out := ⟨0, 0⟩ }) ∧
    (∀ f, m.state = .filling → m.ref = some f → becomes { m with out := ⟨0, 0⟩, rate := f.format.rate }) ∧
    (∀ f, m.state = .starved → m.ref = some f → becomes
      { m with out := ⟨0, 0⟩, rate := f.format.rate, underruns := min 4294967295 (m.underruns + 1) }) ∧
    (∀ l, m.state = .live → m.source = .lane l →
      ((s.lane l).port.lock ≠ .locked → becomes { m with out := ⟨0, 0⟩, rate := (s.lane l).inUse.rate }) ∧
      (∀ f, (s.lane l).port.lock = .locked → m.live = some f → becomes { m with out := f, rate := (s.lane l).inUse.rate }) ∧
      ((s.lane l).port.lock = .locked → m.live = none → ∃ a b, ((s.lane l).inUse.channels = .one → b = a) ∧
        exec (.monitorOutputFrame id) s = .next { s.setMonitor id { m with out := ⟨a, b⟩, rate := (s.lane l).inUse.rate } with
          freeDraws := s.freeDraws + 1 })) ∧
    ∀ f g rest, m.state = .playing → m.ref = some f → m.fifo = g :: rest →
      let out : Pair := if f.format.channels = .one then ⟨g.a, g.a⟩ else g
      let pace : Gate := if rest.length ≤ 2048 then .go else m.pace
      let played : Monitor := { m with fifo := rest, out := out, rate := f.format.rate, pace := pace }
      (rest ≠ [] → becomes played) ∧ (rest = [] → f.final = true → becomes { played with state := .silent, ref := none }) ∧
      (rest = [] → f.final = false → becomes { played with state := .starved })

/-! ### The archive link -/

/-- The received signal: its appearance takes a link that is DOWN to ALIGNING, and its loss takes the link to DOWN. The loss in UP cuts off the
packet in flight and breaks the one being received. -/
def Obligations.LinkSignal : Prop :=
  ∀ s : State, s.awake = true →
    let heard (signal : Bool) : State := { s with rx := { s.rx with signal := signal } }
    (s.rx.state = .down → exec .linkSignalAppear s =
      .next { s with rx := { s.rx with signal := true, state := .aligning, align := 0 } }) ∧
    (s.rx.state ≠ .down → exec .linkSignalAppear s = .next (heard true)) ∧
    (s.rx.state = .down → exec .linkSignalLost s = .next (heard false)) ∧
    (s.rx.state = .aligning → exec .linkSignalLost s = .next { s with rx := { s.rx with signal := false, state := .down } }) ∧
    (s.rx.state = .up → ∃ t, exec .linkSignalLost s = .next t ∧ (heard false).LinkLeaves t)

/-- A received link word. In ALIGNING 64 idle words in a row bring UP, with the gate GO, any hold ended, a PACE and a STATUS notice ready; any other
word starts the count again, and a word in DOWN with the signal present is judged in ALIGNING. In UP the words frame packets, a packet cut by
an idle word, a start word or an unrecognised word is counted as malformed, and the eighth unrecognised word in a row takes the link DOWN. The end word of a
packet tests it: too short for a kind and a check, a wrong check, a kind that the part does not take, or a length that its kind does not have make it
malformed, which is counted and has no other effect; else it has the effect of its kind's row (log 22). -/
def Obligations.LinkWord : Prop :=
  ∀ (s : State) (w : BitVec 10), s.awake = true →
    let becomes (t : State) : Prop := exec (.linkWord w) s = .next t
    let broken : State := match s.rx.packet with
      | some _ => { s with tx := { s.tx with stats := { s.tx.stats with malformed := min 4294967295 (s.tx.stats.malformed + 1) } } }
      | none => s
    let recognised := w = 0x23C#10 ∨ w = 0x25B#10 ∨ w = 0x25D#10 ∨ ∃ b, w = dataWord b
    (s.rx.state = .down → s.rx.signal = false → becomes s) ∧
    (s.rx.state = .down → s.rx.signal = true →
      exec (.linkWord w) s = exec (.linkWord w) { s with rx := { s.rx with state := .aligning, align := 0 } }) ∧
    (s.rx.state = .aligning →
      (w ≠ 0x23C#10 → becomes { s with rx := { s.rx with align := 0 } }) ∧
      (w = 0x23C#10 → s.rx.align + 1 < 64 → becomes { s with rx := { s.rx with align := s.rx.align + 1 } }) ∧
      (w = 0x23C#10 → s.rx.align = 63 → becomes { s with
        rx := { s.rx with state := .up, align := 64, run := 0, packet := none }
        tx := { s.tx with gate := .go, hold := none, beenUp := true, paceReady := true }
        events := { s.events with notices := s.events.notices ++ [.status] } })) ∧
    (s.rx.state = .up →
      (w = 0x23C#10 → becomes { broken with rx := { s.rx with run := 0, packet := none } }) ∧
      (w = 0x25B#10 → becomes { broken with rx := { s.rx with run := 0, packet := some [] } }) ∧
      (∀ b, w = dataWord b → becomes { s with rx := { s.rx with run := 0, packet := s.rx.packet.map fun bs => bs ++ [b] } }) ∧
      (w = 0x25D#10 → s.rx.packet = none → becomes { s with rx := { s.rx with run := 0 } }) ∧
      (w = 0x25D#10 → ∀ bytes, s.rx.packet = some bytes →
        let idle : State := { s with rx := { s.rx with run := 0, packet := none } }
        let rejected : Prop := becomes { idle with
          tx := { s.tx with stats := { s.tx.stats with malformed := min 4294967295 (s.tx.stats.malformed + 1) } } }
        (bytes.length < 3 ∨ bytes ≠ withCheck (bytes.take (bytes.length - 2)) → rejected) ∧
        ∀ kind rest, bytes = withCheck (kind :: rest) →
          (kind ≠ 0x01#8 → kind ≠ 0x05#8 → kind ≠ 0x06#8 → rejected) ∧
          (kind = 0x01#8 → bytes.length < 6 ∨ 53 < bytes.length → rejected) ∧
          (kind = 0x01#8 → ∀ tag code ps, rest = be 2 tag.toNat ++ [code] ++ ps → bytes.length ≤ 53 →
            exec (.linkWord w) s = exec (.commandPacket tag code ps) idle) ∧
          (kind = 0x06#8 → rest.length ≠ 1 → rejected) ∧ (∀ g, kind = 0x06#8 → rest = [g] → exec (.linkWord w) s = exec (.gatePacket g) idle) ∧
          (kind = 0x05#8 → rest.length < 18 ∨ rest.length ≠ 18 + field rest 10 2 * field rest 12 1 * 3 +
            (if (field rest 9 1).testBit 1 = true then 26 else 0) → rejected) ∧
          ∀ p : RecallPacket, kind = 0x05#8 → p.wf = true → rest = be 4 p.item.toNat ++ [p.lane] ++ be 4 p.seq.toNat ++ [p.flags] ++
              be 2 p.frames.toNat ++ [p.channels, p.rate] ++ be 4 p.gap.toNat ++ p.payload ++
              (match p.trailer with
                | some t => be 5 t.length.toNat ++ be 6 t.programme.toNat ++ be 4 t.lost.toNat ++ be 4 t.concealed.toNat ++
                    be 4 t.digest.toNat ++ [t.reason, t.flags, t.segments]
                | none => []) →
            exec (.linkWord w) s = exec (.recallPacket p) idle) ∧
      (¬recognised → s.rx.run + 1 < 8 → becomes { broken with rx := { s.rx with run := s.rx.run + 1, packet := none } }) ∧
      (¬recognised → s.rx.run = 7 → ∃ t, becomes t ∧ s.LinkLeaves t))

/-- A packet received whole: a COMMAND takes the last free place of the command queue or is dropped with COMMAND_DROPPED; a GATE sets the gate by
its bit 0, ending a hold or beginning one; a malformed packet is counted and nothing else, but for what broke it off. A packet on a link that
is ALIGNING only starts the alignment count again (log 22). -/
def Obligations.PacketsTaken : Prop :=
  ∀ s : State,
    let counted (f : LinkStats → LinkStats) : State := { s with tx := { s.tx with stats := f s.tx.stats } }
    let malformed : State := counted fun n => { n with malformed := min 4294967295 (n.malformed + 1) }
    (s.receiving = true →
      (∀ tag code ps, ps.length ≤ 47 →
        let u := counted fun n => { n with commands := min 4294967295 (n.commands + 1) }
        (s.cmd.done.length + s.cmd.waiting.length < 4 → exec (.commandPacket tag code ps) s =
          .next { u with cmd := { s.cmd with waiting := s.cmd.waiting ++ [⟨tag, code, ps⟩] } }) ∧
        (4 ≤ s.cmd.done.length + s.cmd.waiting.length → exec (.commandPacket tag code ps) s =
          .next (u.raise (.device .commandDropped)))) ∧
      (∀ tag code ps, 47 < ps.length → exec (.commandPacket tag code ps) s = .next malformed) ∧
      (∀ g : Byte,
        let u := counted fun n => { n with gates := min 4294967295 (n.gates + 1) }
        (g.getLsbD 0 = true → exec (.gatePacket g) s = .next { u with tx := { u.tx with gate := .go, hold := none } }) ∧
        (g.getLsbD 0 = false → exec (.gatePacket g) s =
          .next { u with tx := { u.tx with gate := .hold, hold := some (s.tx.hold.getD ⟨0, false⟩) } })) ∧
      (∀ cause, cause ∈ [Malformation.badCheck, .unknownKind, .badLength, .idleWordInside] →
        exec (.malformedPacket cause) s = .next malformed) ∧
      exec (.malformedPacket .unrecognisedWordInside) s = .next { malformed with rx := { s.rx with run := 1 } } ∧
      exec (.malformedPacket .startWordInside) s = .next { malformed with rx := { s.rx with packet := some [] } }) ∧
    (s.awake = true → s.rx.state = .aligning → ∀ c, (∃ tag code ps, c = .commandPacket tag code ps) ∨ (∃ p, c = .recallPacket p) ∨
        (∃ g, c = .gatePacket g) ∨ c ∈ [.malformedPacket .badCheck, .malformedPacket .unknownKind, .malformedPacket .badLength] →
      exec c s = .next { s with rx := { s.rx with align := 0 } })

/-- A packet received word by word is the packet received whole, whatever the link state: its start word, the data words of its kind byte, its
body in the order of its table and its packet check, and its end word have together the effect of its row (log 22). -/
def Obligations.PacketsByWords : Prop :=
  ∀ s : State, s.awake = true →
    (∀ tag code ps, ps.length ≤ 47 → receiveWords (packetWords (withCheck ([0x01] ++ be 2 tag.toNat ++ [code] ++ ps))) s =
      exec (.commandPacket tag code ps) s) ∧
    (∀ g, receiveWords (packetWords (withCheck [0x06, g])) s = exec (.gatePacket g) s) ∧
    ∀ p : RecallPacket, p.wf = true →
      receiveWords (packetWords (withCheck ([0x05] ++ be 4 p.item.toNat ++ [p.lane] ++ be 4 p.seq.toNat ++ [p.flags] ++
        be 2 p.frames.toNat ++ [p.channels, p.rate] ++ be 4 p.gap.toNat ++ p.payload ++
        match p.trailer with
          | some t => be 5 t.length.toNat ++ be 6 t.programme.toNat ++ be 4 t.lost.toNat ++ be 4 t.concealed.toNat ++
              be 4 t.digest.toNat ++ [t.reason, t.flags, t.segments]
          | none => []))) s = exec (.recallPacket p) s

/-- A hold: a millisecond moves its timer, without a bound (the model's choice, log 20), and the hold total, saturating; the timer at a limit that is not 0 sets
LINK_STALL once, before any other event (log 6); with no hold or no limit reached there is no such event (log 2). -/
def Obligations.HoldTimer : Prop :=
  ∀ s : State,
    (s.awake = true → exec .holdLimitReached s = .next s ∧ (s.tx.hold = none → exec .holdMillisecond s = .next s) ∧
      ∀ h, s.tx.hold = some h → exec .holdMillisecond s = .next { s with tx := { s.tx with
        hold := some ⟨h.timer + 1, h.stalled⟩
        stats := { s.tx.stats with holdTotal := min 4294967295 (s.tx.stats.holdTotal + 1) } } }) ∧
    ∀ timer, s.resetLow = false → s.cmd.reset ≠ .due → s.tx.hold = some ⟨timer, false⟩ → s.tx.holdLimit ≠ 0 → s.tx.holdLimit ≤ timer →
      let t := ({ s with tx := { s.tx with hold := some ⟨timer, true⟩ } } : State).raise (.device .linkStall)
      exec .holdLimitReached s = .next t ∧
        ∀ c, c ≠ .deviceResetEffect → c ≠ .resetLineRelease → exec c s = exec c t

/-- A free transmitter of a link that is UP begins the packet that the order PACE, REPLY, NOTICE, BLOCK gives, a BLOCK only when the gate is GO, with
its data bytes as they stand (log 23); a reply keeps its place, a notice and a block leave their queues. -/
def Obligations.TransmitStart : Prop :=
  ∀ s : State, s.awake = true →
    let begins (p : Outbound) (bytes : List Byte) : State := { s with tx := { s.tx with inFlight := some ⟨p, withCheck bytes⟩ } }
    let becomes (t : State) : Prop := exec .transmitStart s = .next t
    let m := s.summary
    let summary : List Byte := [m.attention, BitVec.ofNat 8 ((if m.device = true then 1 else 0) + if m.routeDone = true then 2 else 0),
      BitVec.ofNat 8 m.closed, BitVec.ofNat 8 m.free]
    (s.rx.state ≠ .up ∨ s.tx.inFlight ≠ none → becomes s) ∧
    (s.rx.state = .up → s.tx.inFlight = none →
      (s.tx.paceReady = true → ∀ bits, bits = BitVec.ofNat 8 ((if s.monA.pace = .hold then 1 else 0) + if s.monB.pace = .hold then 2 else 0) →
        becomes { begins .pace [0x07, bits] with tx := { (begins .pace [0x07, bits]).tx with paceReady := false } }) ∧
      (s.tx.paceReady = false →
        (∀ r rest, s.cmd.done = r :: rest → becomes (begins .reply ([0x02] ++ be 2 r.tag.toNat ++ [r.code] ++ be 1 r.status.code ++
          [r.summary.attention, BitVec.ofNat 8 ((if r.summary.device = true then 1 else 0) + if r.summary.routeDone = true then 2 else 0),
            BitVec.ofNat 8 r.summary.closed, BitVec.ofNat 8 r.summary.free] ++ be 2 r.result.length ++ r.result))) ∧
        (s.cmd.done = [] →
          (∀ rest, s.events.notices = .status :: rest → becomes { begins (.notice .status) ([0x03, 0] ++ be 1 s.events.cause.code ++
              [0x57, 0x41, 0x84, 0x20, 0x01, 0x5A, 0x0F, 0x3C, 0x96, 8, 96, 192, 16, 2] ++ summary) with
            events := { s.events with notices := rest } }) ∧
          (∀ f item rest, s.events.notices = .event f item :: rest → becomes { begins (.notice (.event f item)) ([0x03] ++ be 1 f.noticeCode ++
              (match f with
                | .lane l _ => be 1 l.val ++ [0xFF]
                | .device _ => [0xFF, 0xFF]
                | .routeDone r => [0xFF] ++ be 1 r.val) ++ be 4 item.toNat) with
            events := { s.events with notices := rest } }) ∧
          (s.events.notices = [] → (s.tx.gate = .hold ∨ s.memory.queue = [] → becomes s) ∧
            ∀ b rest, s.tx.gate = .go → s.memory.queue = b :: rest → becomes { begins (.block b) ([0x04] ++ be 4 b.item.toNat ++ be 1 b.lane.val ++
                be 4 b.seq ++ be 1 ((if b.first = true then 1 else 0) + if b.last = true then 2 else 0) ++ be 2 b.frames ++
                be 1 b.channels.count ++ be 1 b.rate.val ++ be 4 b.gap ++ b.payload ++
                match b.trailer with
                  | some t => be 5 t.length.toNat ++ be 6 t.programme.toNat ++ be 4 t.lost.toNat ++ be 4 t.concealed.toNat ++
                      be 4 t.digest.toNat ++ [t.reason, t.flags, t.segments]
                  | none => []) with
              memory := { s.memory with queue := rest } }))))

/-- The packet in flight complete: each kind is counted; a reply gives up its place, and the one that a DEVICE_RESET awaits makes the reset due; the
STATUS notice leaves the reset cause NONE; a block's buffer is granted to the first waiting lane that is below its quota in force, and again
while a waiting lane can be granted one. With nothing in flight there is no such event, which is the model's choice (log 2). -/
def Obligations.PacketSent : Prop :=
  ∀ s : State, s.awake = true →
    let sent (f : LinkStats → LinkStats) : State := { s with tx := { s.tx with inFlight := none, stats := f s.tx.stats } }
    let up (n : Nat) : Nat := min 4294967295 (n + 1)
    let becomes (t : State) : Prop := exec .packetSent s = .next t
    (s.tx.inFlight = none → becomes s) ∧
    ∀ p bytes, s.tx.inFlight = some ⟨p, bytes⟩ →
      (p = .pace → becomes (sent fun n => { n with paces := up n.paces })) ∧
      (p = .notice .status → becomes { sent fun n => { n with notices := up n.notices } with events := { s.events with cause := .none } }) ∧
      (∀ f item, p = .notice (.event f item) → becomes (sent fun n => { n with notices := up n.notices })) ∧
      (p = .reply → becomes { sent fun n => { n with replies := up n.replies } with
        cmd := { s.cmd with
          done := s.cmd.done.drop 1
          reset := if s.cmd.reset = .replyAwaited ∧ s.cmd.done.length ≤ 1 then .due else s.cmd.reset } }) ∧
      ∀ b, p = .block b →
        let freed := sent fun n => { n with blocks := up n.blocks }
        ((∀ l ∈ s.memory.waiting, freed.canGrant l = false) → becomes freed) ∧
        ∀ before l behind o, s.memory.waiting = before ++ l :: behind → (∀ k ∈ before, freed.canGrant k = false) →
          freed.canGrant l = true → (s.lane l).item = some o → ∃ t, becomes t ∧
            (t.lane l).item = some { o with buffer := some ⟨0, 0, []⟩ } ∧ l ∉ t.memory.waiting ∧
            t.memory.queue = s.memory.queue ∧ t.table = s.table ∧ t.tx = freed.tx ∧
            ∀ k ∈ t.memory.waiting, t.canGrant k = false

/-! ### What every step keeps -/

/-- Every step keeps the table in order: each of the 96 records in one collection, the item numbers unique and not 0, and the queues within
their bounds. -/
def Obligations.TableKept : Prop :=
  (∀ s t : State, s.RecordsKept → step s = .next t → t.RecordsKept) ∧
    (∀ s t : State, s.NumbersUnique → step s = .next t → t.NumbersUnique) ∧
    ∀ s t : State, s.QueuesLawful → step s = .next t → t.QueuesLawful

/-- Every step keeps the marks of the OPEN and CLOSED items sorted and at most 32, and their speed segments in order and at most 8. -/
def Obligations.ItemsKept : Prop := ∀ s t : State, s.ItemsLawful → step s = .next t → t.ItemsLawful

/-- Every step keeps the profiles and the ports in their ranges and the rings within their history lengths; and it keeps the dropout timer
running exactly while an item is open on a lane that is not LOCKED. -/
def Obligations.LanesKept : Prop :=
  (∀ s t : State, s.LanesLawful → step s = .next t → t.LanesLawful) ∧
    ∀ s t : State, s.QueuesLawful → s.TransferLawful → step s = .next t → t.TransferLawful

/-- Every step keeps the holdings within the 192 buffers, and only lanes that record without a buffer wait for one, each once. -/
def Obligations.BuffersKept : Prop := ∀ s t : State, s.BuffersLawful → step s = .next t → t.BuffersLawful

/-- Every step keeps the command queue within its 4 places, the counts of the link receiver in range, at most one notice of a flag waiting, and
a link that is not UP idle. -/
def Obligations.LinkKept : Prop := ∀ s t : State, s.LinkLawful → step s = .next t → t.LinkLawful

/-- Every step keeps the routes' item numbers unique and every VERIFIED route vouched for by its digest and counts; and it keeps the monitor ports
in the states their sources allow, their FIFOs within 8192 frames and their pace states within their bounds. -/
def Obligations.RoutesMonitorsKept : Prop :=
  (∀ s t : State, s.RoutesLawful → step s = .next t → t.RoutesLawful) ∧
    ∀ s t : State, s.MonitorsLawful → step s = .next t → t.MonitorsLawful

/-- The part after power-on is in order. -/
def Obligations.ResetMeetsInvariants : Prop :=
  State.reset.RecordsKept ∧ State.reset.NumbersUnique ∧ State.reset.QueuesLawful ∧ State.reset.LanesLawful ∧ State.reset.TransferLawful ∧
    State.reset.ItemsLawful ∧ State.reset.BuffersLawful ∧ State.reset.LinkLawful ∧ State.reset.RoutesLawful ∧ State.reset.MonitorsLawful

/-! ### Programme time -/

/-- Programme time: R(d, k) rounds to the nearest microsecond, a half up, and grows with d; in a record whose segments are in order
an offset's programme time is that of the last segment that starts at it or before, each segment starts at its programme start, offset 0 has
programme time 0, and programme time never falls. -/
def Obligations.ProgrammeTime : Prop :=
  (∀ (fs d : Nat) (k : Ratio), 0 < fs → 0 < k.q →
    (segmentTime fs k d : ℤ) = ⌊((d * 1000000 * k.p : ℕ) : ℚ) / (fs * k.q : ℕ) + 1 / 2⌋) ∧
  ∀ r : Recording, r.SegmentsLawful → (∀ g ∈ r.segments, 0 < g.ratio.q) →
    r.prog 0 = 0 ∧ (∀ g ∈ r.segments, r.prog g.start = g.programme) ∧
      (∀ g n, g ∈ r.segments → g.start ≤ n → (∀ h ∈ r.segments, h.start ≤ n → h.start ≤ g.start) →
        r.prog n = g.programme + segmentTime (rateHz r.rate) g.ratio (n - g.start)) ∧
      ∀ m n, m ≤ n → r.prog m ≤ r.prog n
end

