-- ==== Sys2Proof/Laws/Bytes.lean ====
section
/-! SUPPORT. Byte order: what numbers the bytes of `be` spell, and the bounds of a field. -/

namespace Sys2Proof.Machine

theorem beNat_append (as : List Byte) (b : Byte) : beNat (as ++ [b]) = beNat as * 256 + b.toNat := by
  simp [beNat]

@[simp] theorem beNat_nil : beNat [] = 0 := rfl

@[simp] theorem length_be (n v : Nat) : (be n v).length = n := by
  induction n generalizing v with
  | zero => rfl
  | succ n ih => simp [be, ih]

/-- The bytes of a number that fits spell it (R173). -/
theorem beNat_be (n v : Nat) : beNat (be n v) = v % 256 ^ n := by
  induction n generalizing v with
  | zero => simp [be, Nat.mod_one]
  | succ n ih =>
    rw [be, beNat_append, ih, BitVec.toNat_ofNat, show (2 : Nat) ^ 8 = 256 from rfl, Nat.pow_succ, Nat.mul_comm (256 ^ n) 256,
      Nat.mod_mul]
    omega

/-- Bytes spell a number below 256 to the power of their count. -/
theorem beNat_lt (bs : List Byte) : beNat bs < 256 ^ bs.length := by
  induction bs using List.reverseRecOn with
  | nil => simp
  | append_singleton bs b ih =>
    rw [beNat_append, List.length_append, List.length_singleton, Nat.pow_succ]
    have := b.isLt
    omega

theorem field_lt (bs : List Byte) (pos width : Nat) : field bs pos width < 256 ^ width := by
  refine lt_of_lt_of_le (beNat_lt _) (Nat.pow_le_pow_right (by omega) ?_)
  simp

/-- A field that stands at the front. -/
theorem field_zero (as bs : List Byte) : field (as ++ bs) 0 as.length = beNat as := by
  simp [field]

/-- A field behind other bytes. -/
theorem field_append (as bs : List Byte) (pos width : Nat) : field (as ++ bs) (as.length + pos) width = field bs pos width := by
  unfold field
  rw [← List.drop_drop, List.drop_left]

end Sys2Proof.Machine
end

