-- ==== Sys2Proof/Laws/State.lean ====
section
/-! SUPPORT. What each update of the state leaves: one lemma for each field. -/

namespace Sys2Proof.Machine

/-! ### setLane -/

@[simp] theorem State.setLane_table (s : State) (l : LaneId) (x : Lane) : (s.setLane l x).table = s.table := rfl
@[simp] theorem State.setLane_memory (s : State) (l : LaneId) (x : Lane) : (s.setLane l x).memory = s.memory := rfl
@[simp] theorem State.setLane_tx (s : State) (l : LaneId) (x : Lane) : (s.setLane l x).tx = s.tx := rfl
@[simp] theorem State.setLane_rx (s : State) (l : LaneId) (x : Lane) : (s.setLane l x).rx = s.rx := rfl
@[simp] theorem State.setLane_cmd (s : State) (l : LaneId) (x : Lane) : (s.setLane l x).cmd = s.cmd := rfl
@[simp] theorem State.setLane_events (s : State) (l : LaneId) (x : Lane) : (s.setLane l x).events = s.events := rfl
@[simp] theorem State.setLane_routes (s : State) (l : LaneId) (x : Lane) : (s.setLane l x).routes = s.routes := rfl
@[simp] theorem State.setLane_monA (s : State) (l : LaneId) (x : Lane) : (s.setLane l x).monA = s.monA := rfl
@[simp] theorem State.setLane_monB (s : State) (l : LaneId) (x : Lane) : (s.setLane l x).monB = s.monB := rfl
@[simp] theorem State.setLane_resetLow (s : State) (l : LaneId) (x : Lane) : (s.setLane l x).resetLow = s.resetLow := rfl
@[simp] theorem State.setLane_freeDraws (s : State) (l : LaneId) (x : Lane) : (s.setLane l x).freeDraws = s.freeDraws := rfl
@[simp] theorem State.setLane_pending (s : State) (l : LaneId) (x : Lane) : (s.setLane l x).pending = s.pending := rfl

/-! ### mapLane -/

@[simp] theorem State.mapLane_table (s : State) (l : LaneId) (f : Lane → Lane) : (s.mapLane l f).table = s.table := rfl
@[simp] theorem State.mapLane_memory (s : State) (l : LaneId) (f : Lane → Lane) : (s.mapLane l f).memory = s.memory := rfl
@[simp] theorem State.mapLane_tx (s : State) (l : LaneId) (f : Lane → Lane) : (s.mapLane l f).tx = s.tx := rfl
@[simp] theorem State.mapLane_rx (s : State) (l : LaneId) (f : Lane → Lane) : (s.mapLane l f).rx = s.rx := rfl
@[simp] theorem State.mapLane_cmd (s : State) (l : LaneId) (f : Lane → Lane) : (s.mapLane l f).cmd = s.cmd := rfl
@[simp] theorem State.mapLane_events (s : State) (l : LaneId) (f : Lane → Lane) : (s.mapLane l f).events = s.events := rfl
@[simp] theorem State.mapLane_routes (s : State) (l : LaneId) (f : Lane → Lane) : (s.mapLane l f).routes = s.routes := rfl
@[simp] theorem State.mapLane_monA (s : State) (l : LaneId) (f : Lane → Lane) : (s.mapLane l f).monA = s.monA := rfl
@[simp] theorem State.mapLane_monB (s : State) (l : LaneId) (f : Lane → Lane) : (s.mapLane l f).monB = s.monB := rfl
@[simp] theorem State.mapLane_resetLow (s : State) (l : LaneId) (f : Lane → Lane) : (s.mapLane l f).resetLow = s.resetLow := rfl
@[simp] theorem State.mapLane_freeDraws (s : State) (l : LaneId) (f : Lane → Lane) : (s.mapLane l f).freeDraws = s.freeDraws := rfl
@[simp] theorem State.mapLane_pending (s : State) (l : LaneId) (f : Lane → Lane) : (s.mapLane l f).pending = s.pending := rfl

/-! ### mapItem -/

@[simp] theorem State.mapItem_table (s : State) (l : LaneId) (f : OpenItem → OpenItem) : (s.mapItem l f).table = s.table := rfl
@[simp] theorem State.mapItem_memory (s : State) (l : LaneId) (f : OpenItem → OpenItem) : (s.mapItem l f).memory = s.memory := rfl
@[simp] theorem State.mapItem_tx (s : State) (l : LaneId) (f : OpenItem → OpenItem) : (s.mapItem l f).tx = s.tx := rfl
@[simp] theorem State.mapItem_rx (s : State) (l : LaneId) (f : OpenItem → OpenItem) : (s.mapItem l f).rx = s.rx := rfl
@[simp] theorem State.mapItem_cmd (s : State) (l : LaneId) (f : OpenItem → OpenItem) : (s.mapItem l f).cmd = s.cmd := rfl
@[simp] theorem State.mapItem_events (s : State) (l : LaneId) (f : OpenItem → OpenItem) : (s.mapItem l f).events = s.events := rfl
@[simp] theorem State.mapItem_routes (s : State) (l : LaneId) (f : OpenItem → OpenItem) : (s.mapItem l f).routes = s.routes := rfl
@[simp] theorem State.mapItem_monA (s : State) (l : LaneId) (f : OpenItem → OpenItem) : (s.mapItem l f).monA = s.monA := rfl
@[simp] theorem State.mapItem_monB (s : State) (l : LaneId) (f : OpenItem → OpenItem) : (s.mapItem l f).monB = s.monB := rfl
@[simp] theorem State.mapItem_resetLow (s : State) (l : LaneId) (f : OpenItem → OpenItem) : (s.mapItem l f).resetLow = s.resetLow := rfl
@[simp] theorem State.mapItem_freeDraws (s : State) (l : LaneId) (f : OpenItem → OpenItem) : (s.mapItem l f).freeDraws = s.freeDraws := rfl
@[simp] theorem State.mapItem_pending (s : State) (l : LaneId) (f : OpenItem → OpenItem) : (s.mapItem l f).pending = s.pending := rfl

/-! ### raise -/

@[simp] theorem State.raise_lanes (s : State) (f : Flag) (i : Item) : (s.raise f i).lanes = s.lanes := rfl
@[simp] theorem State.raise_table (s : State) (f : Flag) (i : Item) : (s.raise f i).table = s.table := rfl
@[simp] theorem State.raise_memory (s : State) (f : Flag) (i : Item) : (s.raise f i).memory = s.memory := rfl
@[simp] theorem State.raise_tx (s : State) (f : Flag) (i : Item) : (s.raise f i).tx = s.tx := rfl
@[simp] theorem State.raise_rx (s : State) (f : Flag) (i : Item) : (s.raise f i).rx = s.rx := rfl
@[simp] theorem State.raise_cmd (s : State) (f : Flag) (i : Item) : (s.raise f i).cmd = s.cmd := rfl
@[simp] theorem State.raise_routes (s : State) (f : Flag) (i : Item) : (s.raise f i).routes = s.routes := rfl
@[simp] theorem State.raise_monA (s : State) (f : Flag) (i : Item) : (s.raise f i).monA = s.monA := rfl
@[simp] theorem State.raise_monB (s : State) (f : Flag) (i : Item) : (s.raise f i).monB = s.monB := rfl
@[simp] theorem State.raise_resetLow (s : State) (f : Flag) (i : Item) : (s.raise f i).resetLow = s.resetLow := rfl
@[simp] theorem State.raise_freeDraws (s : State) (f : Flag) (i : Item) : (s.raise f i).freeDraws = s.freeDraws := rfl
@[simp] theorem State.raise_pending (s : State) (f : Flag) (i : Item) : (s.raise f i).pending = s.pending := rfl

/-! ### count -/

@[simp] theorem State.count_lanes (s : State) (f : LinkStats → LinkStats) : (s.count f).lanes = s.lanes := rfl
@[simp] theorem State.count_table (s : State) (f : LinkStats → LinkStats) : (s.count f).table = s.table := rfl
@[simp] theorem State.count_memory (s : State) (f : LinkStats → LinkStats) : (s.count f).memory = s.memory := rfl
@[simp] theorem State.count_rx (s : State) (f : LinkStats → LinkStats) : (s.count f).rx = s.rx := rfl
@[simp] theorem State.count_cmd (s : State) (f : LinkStats → LinkStats) : (s.count f).cmd = s.cmd := rfl
@[simp] theorem State.count_events (s : State) (f : LinkStats → LinkStats) : (s.count f).events = s.events := rfl
@[simp] theorem State.count_routes (s : State) (f : LinkStats → LinkStats) : (s.count f).routes = s.routes := rfl
@[simp] theorem State.count_monA (s : State) (f : LinkStats → LinkStats) : (s.count f).monA = s.monA := rfl
@[simp] theorem State.count_monB (s : State) (f : LinkStats → LinkStats) : (s.count f).monB = s.monB := rfl
@[simp] theorem State.count_resetLow (s : State) (f : LinkStats → LinkStats) : (s.count f).resetLow = s.resetLow := rfl
@[simp] theorem State.count_freeDraws (s : State) (f : LinkStats → LinkStats) : (s.count f).freeDraws = s.freeDraws := rfl
@[simp] theorem State.count_pending (s : State) (f : LinkStats → LinkStats) : (s.count f).pending = s.pending := rfl

/-! ### setRoute -/

@[simp] theorem State.setRoute_lanes (s : State) (r : RouteId) (t : Option Route) : (s.setRoute r t).lanes = s.lanes := rfl
@[simp] theorem State.setRoute_table (s : State) (r : RouteId) (t : Option Route) : (s.setRoute r t).table = s.table := rfl
@[simp] theorem State.setRoute_memory (s : State) (r : RouteId) (t : Option Route) : (s.setRoute r t).memory = s.memory := rfl
@[simp] theorem State.setRoute_tx (s : State) (r : RouteId) (t : Option Route) : (s.setRoute r t).tx = s.tx := rfl
@[simp] theorem State.setRoute_rx (s : State) (r : RouteId) (t : Option Route) : (s.setRoute r t).rx = s.rx := rfl
@[simp] theorem State.setRoute_cmd (s : State) (r : RouteId) (t : Option Route) : (s.setRoute r t).cmd = s.cmd := rfl
@[simp] theorem State.setRoute_events (s : State) (r : RouteId) (t : Option Route) : (s.setRoute r t).events = s.events := rfl
@[simp] theorem State.setRoute_monA (s : State) (r : RouteId) (t : Option Route) : (s.setRoute r t).monA = s.monA := rfl
@[simp] theorem State.setRoute_monB (s : State) (r : RouteId) (t : Option Route) : (s.setRoute r t).monB = s.monB := rfl
@[simp] theorem State.setRoute_resetLow (s : State) (r : RouteId) (t : Option Route) : (s.setRoute r t).resetLow = s.resetLow := rfl
@[simp] theorem State.setRoute_freeDraws (s : State) (r : RouteId) (t : Option Route) : (s.setRoute r t).freeDraws = s.freeDraws := rfl
@[simp] theorem State.setRoute_pending (s : State) (r : RouteId) (t : Option Route) : (s.setRoute r t).pending = s.pending := rfl

/-! ### enqueue -/

@[simp] theorem State.enqueue_lanes (s : State) (b : Block) : (s.enqueue b).lanes = s.lanes := rfl
@[simp] theorem State.enqueue_table (s : State) (b : Block) : (s.enqueue b).table = s.table := rfl
@[simp] theorem State.enqueue_tx (s : State) (b : Block) : (s.enqueue b).tx = s.tx := rfl
@[simp] theorem State.enqueue_rx (s : State) (b : Block) : (s.enqueue b).rx = s.rx := rfl
@[simp] theorem State.enqueue_cmd (s : State) (b : Block) : (s.enqueue b).cmd = s.cmd := rfl
@[simp] theorem State.enqueue_events (s : State) (b : Block) : (s.enqueue b).events = s.events := rfl
@[simp] theorem State.enqueue_routes (s : State) (b : Block) : (s.enqueue b).routes = s.routes := rfl
@[simp] theorem State.enqueue_monA (s : State) (b : Block) : (s.enqueue b).monA = s.monA := rfl
@[simp] theorem State.enqueue_monB (s : State) (b : Block) : (s.enqueue b).monB = s.monB := rfl
@[simp] theorem State.enqueue_resetLow (s : State) (b : Block) : (s.enqueue b).resetLow = s.resetLow := rfl
@[simp] theorem State.enqueue_freeDraws (s : State) (b : Block) : (s.enqueue b).freeDraws = s.freeDraws := rfl
@[simp] theorem State.enqueue_pending (s : State) (b : Block) : (s.enqueue b).pending = s.pending := rfl

/-! ### startWaiting -/

@[simp] theorem State.startWaiting_lanes (s : State) (l : LaneId) : (s.startWaiting l).lanes = s.lanes := rfl
@[simp] theorem State.startWaiting_table (s : State) (l : LaneId) : (s.startWaiting l).table = s.table := rfl
@[simp] theorem State.startWaiting_tx (s : State) (l : LaneId) : (s.startWaiting l).tx = s.tx := rfl
@[simp] theorem State.startWaiting_rx (s : State) (l : LaneId) : (s.startWaiting l).rx = s.rx := rfl
@[simp] theorem State.startWaiting_cmd (s : State) (l : LaneId) : (s.startWaiting l).cmd = s.cmd := rfl
@[simp] theorem State.startWaiting_events (s : State) (l : LaneId) : (s.startWaiting l).events = s.events := rfl
@[simp] theorem State.startWaiting_routes (s : State) (l : LaneId) : (s.startWaiting l).routes = s.routes := rfl
@[simp] theorem State.startWaiting_monA (s : State) (l : LaneId) : (s.startWaiting l).monA = s.monA := rfl
@[simp] theorem State.startWaiting_monB (s : State) (l : LaneId) : (s.startWaiting l).monB = s.monB := rfl
@[simp] theorem State.startWaiting_resetLow (s : State) (l : LaneId) : (s.startWaiting l).resetLow = s.resetLow := rfl
@[simp] theorem State.startWaiting_freeDraws (s : State) (l : LaneId) : (s.startWaiting l).freeDraws = s.freeDraws := rfl
@[simp] theorem State.startWaiting_pending (s : State) (l : LaneId) : (s.startWaiting l).pending = s.pending := rfl

/-! ### stopWaiting -/

@[simp] theorem State.stopWaiting_lanes (s : State) (l : LaneId) : (s.stopWaiting l).lanes = s.lanes := rfl
@[simp] theorem State.stopWaiting_table (s : State) (l : LaneId) : (s.stopWaiting l).table = s.table := rfl
@[simp] theorem State.stopWaiting_tx (s : State) (l : LaneId) : (s.stopWaiting l).tx = s.tx := rfl
@[simp] theorem State.stopWaiting_rx (s : State) (l : LaneId) : (s.stopWaiting l).rx = s.rx := rfl
@[simp] theorem State.stopWaiting_cmd (s : State) (l : LaneId) : (s.stopWaiting l).cmd = s.cmd := rfl
@[simp] theorem State.stopWaiting_events (s : State) (l : LaneId) : (s.stopWaiting l).events = s.events := rfl
@[simp] theorem State.stopWaiting_routes (s : State) (l : LaneId) : (s.stopWaiting l).routes = s.routes := rfl
@[simp] theorem State.stopWaiting_monA (s : State) (l : LaneId) : (s.stopWaiting l).monA = s.monA := rfl
@[simp] theorem State.stopWaiting_monB (s : State) (l : LaneId) : (s.stopWaiting l).monB = s.monB := rfl
@[simp] theorem State.stopWaiting_resetLow (s : State) (l : LaneId) : (s.stopWaiting l).resetLow = s.resetLow := rfl
@[simp] theorem State.stopWaiting_freeDraws (s : State) (l : LaneId) : (s.stopWaiting l).freeDraws = s.freeDraws := rfl
@[simp] theorem State.stopWaiting_pending (s : State) (l : LaneId) : (s.stopWaiting l).pending = s.pending := rfl

/-! ### giveBuffer -/

@[simp] theorem State.giveBuffer_table (s : State) (l : LaneId) : (s.giveBuffer l).table = s.table := rfl
@[simp] theorem State.giveBuffer_memory (s : State) (l : LaneId) : (s.giveBuffer l).memory = s.memory := rfl
@[simp] theorem State.giveBuffer_tx (s : State) (l : LaneId) : (s.giveBuffer l).tx = s.tx := rfl
@[simp] theorem State.giveBuffer_rx (s : State) (l : LaneId) : (s.giveBuffer l).rx = s.rx := rfl
@[simp] theorem State.giveBuffer_cmd (s : State) (l : LaneId) : (s.giveBuffer l).cmd = s.cmd := rfl
@[simp] theorem State.giveBuffer_events (s : State) (l : LaneId) : (s.giveBuffer l).events = s.events := rfl
@[simp] theorem State.giveBuffer_routes (s : State) (l : LaneId) : (s.giveBuffer l).routes = s.routes := rfl
@[simp] theorem State.giveBuffer_monA (s : State) (l : LaneId) : (s.giveBuffer l).monA = s.monA := rfl
@[simp] theorem State.giveBuffer_monB (s : State) (l : LaneId) : (s.giveBuffer l).monB = s.monB := rfl
@[simp] theorem State.giveBuffer_resetLow (s : State) (l : LaneId) : (s.giveBuffer l).resetLow = s.resetLow := rfl
@[simp] theorem State.giveBuffer_freeDraws (s : State) (l : LaneId) : (s.giveBuffer l).freeDraws = s.freeDraws := rfl
@[simp] theorem State.giveBuffer_pending (s : State) (l : LaneId) : (s.giveBuffer l).pending = s.pending := rfl

/-! ### deliverLive -/

@[simp] theorem State.deliverLive_lanes (s : State) (l : LaneId) (c : Channels) (f : Frame) : (s.deliverLive l c f).lanes = s.lanes := rfl
@[simp] theorem State.deliverLive_table (s : State) (l : LaneId) (c : Channels) (f : Frame) : (s.deliverLive l c f).table = s.table := rfl
@[simp] theorem State.deliverLive_memory (s : State) (l : LaneId) (c : Channels) (f : Frame) : (s.deliverLive l c f).memory = s.memory := rfl
@[simp] theorem State.deliverLive_tx (s : State) (l : LaneId) (c : Channels) (f : Frame) : (s.deliverLive l c f).tx = s.tx := rfl
@[simp] theorem State.deliverLive_rx (s : State) (l : LaneId) (c : Channels) (f : Frame) : (s.deliverLive l c f).rx = s.rx := rfl
@[simp] theorem State.deliverLive_cmd (s : State) (l : LaneId) (c : Channels) (f : Frame) : (s.deliverLive l c f).cmd = s.cmd := rfl
@[simp] theorem State.deliverLive_events (s : State) (l : LaneId) (c : Channels) (f : Frame) : (s.deliverLive l c f).events = s.events := rfl
@[simp] theorem State.deliverLive_routes (s : State) (l : LaneId) (c : Channels) (f : Frame) : (s.deliverLive l c f).routes = s.routes := rfl
@[simp] theorem State.deliverLive_resetLow (s : State) (l : LaneId) (c : Channels) (f : Frame) : (s.deliverLive l c f).resetLow = s.resetLow := rfl
@[simp] theorem State.deliverLive_freeDraws (s : State) (l : LaneId) (c : Channels) (f : Frame) : (s.deliverLive l c f).freeDraws = s.freeDraws := rfl
@[simp] theorem State.deliverLive_pending (s : State) (l : LaneId) (c : Channels) (f : Frame) : (s.deliverLive l c f).pending = s.pending := rfl

/-! ### file -/

@[simp] theorem State.file_lanes (s : State) (c : ClosedRecord) : (s.file c).lanes = s.lanes := rfl
@[simp] theorem State.file_memory (s : State) (c : ClosedRecord) : (s.file c).memory = s.memory := rfl
@[simp] theorem State.file_tx (s : State) (c : ClosedRecord) : (s.file c).tx = s.tx := rfl
@[simp] theorem State.file_rx (s : State) (c : ClosedRecord) : (s.file c).rx = s.rx := rfl
@[simp] theorem State.file_cmd (s : State) (c : ClosedRecord) : (s.file c).cmd = s.cmd := rfl
@[simp] theorem State.file_events (s : State) (c : ClosedRecord) : (s.file c).events = s.events := rfl
@[simp] theorem State.file_routes (s : State) (c : ClosedRecord) : (s.file c).routes = s.routes := rfl
@[simp] theorem State.file_monA (s : State) (c : ClosedRecord) : (s.file c).monA = s.monA := rfl
@[simp] theorem State.file_monB (s : State) (c : ClosedRecord) : (s.file c).monB = s.monB := rfl
@[simp] theorem State.file_resetLow (s : State) (c : ClosedRecord) : (s.file c).resetLow = s.resetLow := rfl
@[simp] theorem State.file_freeDraws (s : State) (c : ClosedRecord) : (s.file c).freeDraws = s.freeDraws := rfl
@[simp] theorem State.file_pending (s : State) (c : ClosedRecord) : (s.file c).pending = s.pending := rfl

/-! ### refreshHold -/

@[simp] theorem State.refreshHold_lanes (s : State) : (s.refreshHold).lanes = s.lanes := rfl
@[simp] theorem State.refreshHold_table (s : State) : (s.refreshHold).table = s.table := rfl
@[simp] theorem State.refreshHold_memory (s : State) : (s.refreshHold).memory = s.memory := rfl
@[simp] theorem State.refreshHold_rx (s : State) : (s.refreshHold).rx = s.rx := rfl
@[simp] theorem State.refreshHold_cmd (s : State) : (s.refreshHold).cmd = s.cmd := rfl
@[simp] theorem State.refreshHold_events (s : State) : (s.refreshHold).events = s.events := rfl
@[simp] theorem State.refreshHold_routes (s : State) : (s.refreshHold).routes = s.routes := rfl
@[simp] theorem State.refreshHold_monA (s : State) : (s.refreshHold).monA = s.monA := rfl
@[simp] theorem State.refreshHold_monB (s : State) : (s.refreshHold).monB = s.monB := rfl
@[simp] theorem State.refreshHold_resetLow (s : State) : (s.refreshHold).resetLow = s.resetLow := rfl
@[simp] theorem State.refreshHold_freeDraws (s : State) : (s.refreshHold).freeDraws = s.freeDraws := rfl
@[simp] theorem State.refreshHold_pending (s : State) : (s.refreshHold).pending = s.pending := rfl

/-! ### takeCommand -/

@[simp] theorem State.takeCommand_lanes (s : State) : (s.takeCommand).lanes = s.lanes := rfl
@[simp] theorem State.takeCommand_table (s : State) : (s.takeCommand).table = s.table := rfl
@[simp] theorem State.takeCommand_memory (s : State) : (s.takeCommand).memory = s.memory := rfl
@[simp] theorem State.takeCommand_tx (s : State) : (s.takeCommand).tx = s.tx := rfl
@[simp] theorem State.takeCommand_rx (s : State) : (s.takeCommand).rx = s.rx := rfl
@[simp] theorem State.takeCommand_events (s : State) : (s.takeCommand).events = s.events := rfl
@[simp] theorem State.takeCommand_routes (s : State) : (s.takeCommand).routes = s.routes := rfl
@[simp] theorem State.takeCommand_monA (s : State) : (s.takeCommand).monA = s.monA := rfl
@[simp] theorem State.takeCommand_monB (s : State) : (s.takeCommand).monB = s.monB := rfl
@[simp] theorem State.takeCommand_resetLow (s : State) : (s.takeCommand).resetLow = s.resetLow := rfl
@[simp] theorem State.takeCommand_freeDraws (s : State) : (s.takeCommand).freeDraws = s.freeDraws := rfl
@[simp] theorem State.takeCommand_pending (s : State) : (s.takeCommand).pending = s.pending := rfl

/-! ### answered -/

@[simp] theorem State.answered_lanes (s : State) (c : Command) (st : Status) (r : List Byte) : (s.answered c st r).lanes = s.lanes := rfl
@[simp] theorem State.answered_table (s : State) (c : Command) (st : Status) (r : List Byte) : (s.answered c st r).table = s.table := rfl
@[simp] theorem State.answered_memory (s : State) (c : Command) (st : Status) (r : List Byte) : (s.answered c st r).memory = s.memory := rfl
@[simp] theorem State.answered_tx (s : State) (c : Command) (st : Status) (r : List Byte) : (s.answered c st r).tx = s.tx := rfl
@[simp] theorem State.answered_rx (s : State) (c : Command) (st : Status) (r : List Byte) : (s.answered c st r).rx = s.rx := rfl
@[simp] theorem State.answered_events (s : State) (c : Command) (st : Status) (r : List Byte) : (s.answered c st r).events = s.events := rfl
@[simp] theorem State.answered_routes (s : State) (c : Command) (st : Status) (r : List Byte) : (s.answered c st r).routes = s.routes := rfl
@[simp] theorem State.answered_monA (s : State) (c : Command) (st : Status) (r : List Byte) : (s.answered c st r).monA = s.monA := rfl
@[simp] theorem State.answered_monB (s : State) (c : Command) (st : Status) (r : List Byte) : (s.answered c st r).monB = s.monB := rfl
@[simp] theorem State.answered_resetLow (s : State) (c : Command) (st : Status) (r : List Byte) : (s.answered c st r).resetLow = s.resetLow := rfl
@[simp] theorem State.answered_freeDraws (s : State) (c : Command) (st : Status) (r : List Byte) : (s.answered c st r).freeDraws = s.freeDraws := rfl
@[simp] theorem State.answered_pending (s : State) (c : Command) (st : Status) (r : List Byte) : (s.answered c st r).pending = s.pending := rfl

/-! ### begin -/

@[simp] theorem State.begin_lanes (s : State) (p : Outbound) : (s.begin p).lanes = s.lanes := rfl
@[simp] theorem State.begin_table (s : State) (p : Outbound) : (s.begin p).table = s.table := rfl
@[simp] theorem State.begin_memory (s : State) (p : Outbound) : (s.begin p).memory = s.memory := rfl
@[simp] theorem State.begin_rx (s : State) (p : Outbound) : (s.begin p).rx = s.rx := rfl
@[simp] theorem State.begin_cmd (s : State) (p : Outbound) : (s.begin p).cmd = s.cmd := rfl
@[simp] theorem State.begin_events (s : State) (p : Outbound) : (s.begin p).events = s.events := rfl
@[simp] theorem State.begin_routes (s : State) (p : Outbound) : (s.begin p).routes = s.routes := rfl
@[simp] theorem State.begin_monA (s : State) (p : Outbound) : (s.begin p).monA = s.monA := rfl
@[simp] theorem State.begin_monB (s : State) (p : Outbound) : (s.begin p).monB = s.monB := rfl
@[simp] theorem State.begin_resetLow (s : State) (p : Outbound) : (s.begin p).resetLow = s.resetLow := rfl
@[simp] theorem State.begin_freeDraws (s : State) (p : Outbound) : (s.begin p).freeDraws = s.freeDraws := rfl
@[simp] theorem State.begin_pending (s : State) (p : Outbound) : (s.begin p).pending = s.pending := rfl

/-! ### setMonitor -/

@[simp] theorem State.setMonitor_lanes (s : State) (id : MonitorId) (m : Monitor) : (s.setMonitor id m).lanes = s.lanes := by cases id <;> rfl
@[simp] theorem State.setMonitor_table (s : State) (id : MonitorId) (m : Monitor) : (s.setMonitor id m).table = s.table := by cases id <;> rfl
@[simp] theorem State.setMonitor_memory (s : State) (id : MonitorId) (m : Monitor) : (s.setMonitor id m).memory = s.memory := by cases id <;> rfl
@[simp] theorem State.setMonitor_rx (s : State) (id : MonitorId) (m : Monitor) : (s.setMonitor id m).rx = s.rx := by cases id <;> rfl
@[simp] theorem State.setMonitor_cmd (s : State) (id : MonitorId) (m : Monitor) : (s.setMonitor id m).cmd = s.cmd := by cases id <;> rfl
@[simp] theorem State.setMonitor_events (s : State) (id : MonitorId) (m : Monitor) : (s.setMonitor id m).events = s.events := by cases id <;> rfl
@[simp] theorem State.setMonitor_routes (s : State) (id : MonitorId) (m : Monitor) : (s.setMonitor id m).routes = s.routes := by cases id <;> rfl
@[simp] theorem State.setMonitor_resetLow (s : State) (id : MonitorId) (m : Monitor) : (s.setMonitor id m).resetLow = s.resetLow := by cases id <;> rfl
@[simp] theorem State.setMonitor_freeDraws (s : State) (id : MonitorId) (m : Monitor) : (s.setMonitor id m).freeDraws = s.freeDraws := by cases id <;> rfl
@[simp] theorem State.setMonitor_pending (s : State) (id : MonitorId) (m : Monitor) : (s.setMonitor id m).pending = s.pending := by cases id <;> rfl
@[simp] theorem State.setMonitor_self (s : State) (id : MonitorId) (m : Monitor) : (s.setMonitor id m).monitor id = m := by cases id <;> rfl

/-! ### Reading a lane -/

@[simp] theorem State.lane_setLane (s : State) (l : LaneId) (x : Lane) : (s.setLane l x).lane l = x := by
  simp [State.lane, State.setLane]

theorem State.lane_setLane_ne (s : State) {l k : LaneId} (x : Lane) (h : k ≠ l) : (s.setLane l x).lane k = s.lane k := by
  have : l.val ≠ k.val := fun e => h (Fin.ext e.symm)
  simp [State.lane, State.setLane, Vector.getElem_set_ne, this]

theorem State.lane_setLane_eq (s : State) (l k : LaneId) (x : Lane) :
    (s.setLane l x).lane k = if k = l then x else s.lane k := by
  by_cases h : k = l
  · subst h; simp
  · simp [h, State.lane_setLane_ne s x h]

@[simp] theorem State.lane_mapLane (s : State) (l : LaneId) (f : Lane → Lane) : (s.mapLane l f).lane l = f (s.lane l) := by
  simp [State.mapLane]

theorem State.lane_mapLane_eq (s : State) (l k : LaneId) (f : Lane → Lane) :
    (s.mapLane l f).lane k = if k = l then f (s.lane l) else s.lane k := s.lane_setLane_eq l k _

theorem State.lane_mapLane_ne (s : State) {l k : LaneId} (f : Lane → Lane) (h : k ≠ l) : (s.mapLane l f).lane k = s.lane k :=
  s.lane_setLane_ne _ h

@[simp] theorem State.lane_mapItem (s : State) (l : LaneId) (f : OpenItem → OpenItem) :
    (s.mapItem l f).lane l = { s.lane l with item := (s.lane l).item.map f } := by
  simp [State.mapItem]

theorem State.lane_mapItem_eq (s : State) (l k : LaneId) (f : OpenItem → OpenItem) :
    (s.mapItem l f).lane k = if k = l then { s.lane l with item := (s.lane l).item.map f } else s.lane k :=
  s.lane_mapLane_eq l k _

theorem State.lane_mapItem_ne (s : State) {l k : LaneId} (f : OpenItem → OpenItem) (h : k ≠ l) : (s.mapItem l f).lane k = s.lane k :=
  s.lane_mapLane_ne _ h

/-- A lane depends on the lanes alone. -/
theorem State.lane_congr {s t : State} (h : t.lanes = s.lanes) (k : LaneId) : t.lane k = s.lane k := by
  simp [State.lane, h]

@[simp] theorem State.lane_raise (s : State) (f : Flag) (i : Item) (k : LaneId) : (s.raise f i).lane k = s.lane k := rfl
@[simp] theorem State.lane_count (s : State) (f : LinkStats → LinkStats) (k : LaneId) : (s.count f).lane k = s.lane k := rfl
@[simp] theorem State.lane_enqueue (s : State) (b : Block) (k : LaneId) : (s.enqueue b).lane k = s.lane k := rfl
@[simp] theorem State.lane_startWaiting (s : State) (l k : LaneId) : (s.startWaiting l).lane k = s.lane k := rfl
@[simp] theorem State.lane_stopWaiting (s : State) (l k : LaneId) : (s.stopWaiting l).lane k = s.lane k := rfl
@[simp] theorem State.lane_file (s : State) (c : ClosedRecord) (k : LaneId) : (s.file c).lane k = s.lane k := rfl
@[simp] theorem State.lane_takeCommand (s : State) (k : LaneId) : s.takeCommand.lane k = s.lane k := rfl
@[simp] theorem State.lane_setRoute (s : State) (r : RouteId) (t : Option Route) (k : LaneId) : (s.setRoute r t).lane k = s.lane k := rfl
@[simp] theorem State.lane_setMonitor (s : State) (id : MonitorId) (m : Monitor) (k : LaneId) :
    (s.setMonitor id m).lane k = s.lane k := by cases id <;> rfl

/-! ### A lane at a close -/

@[simp] theorem Lane.vacate_item (x : Lane) (c : FrameCount) : (x.vacate c).item = none := rfl
@[simp] theorem Lane.vacate_queue (x : Lane) (c : FrameCount) : (x.vacate c).queue = x.queue := rfl
@[simp] theorem Lane.vacate_profile (x : Lane) (c : FrameCount) : (x.vacate c).profile = x.profile := rfl
@[simp] theorem Lane.vacate_port (x : Lane) (c : FrameCount) : (x.vacate c).port = x.port := rfl
@[simp] theorem Lane.vacate_cue (x : Lane) (c : FrameCount) : (x.vacate c).cue = x.cue := rfl
@[simp] theorem Lane.vacate_detector (x : Lane) (c : FrameCount) : (x.vacate c).detector = x.detector := rfl
@[simp] theorem Lane.vacate_ring (x : Lane) (c : FrameCount) : (x.vacate c).ring = x.ring := rfl
@[simp] theorem Lane.arm_item (x : Lane) : x.arm.item = x.item := rfl
@[simp] theorem Lane.arm_queue (x : Lane) : x.arm.queue = x.queue := rfl
@[simp] theorem Lane.arm_profile (x : Lane) : x.arm.profile = x.profile := rfl
@[simp] theorem Lane.arm_port (x : Lane) : x.arm.port = x.port := rfl
@[simp] theorem Lane.arm_cue (x : Lane) : x.arm.cue = x.cue := rfl
@[simp] theorem Lane.arm_detector (x : Lane) : x.arm.detector = x.detector := rfl
@[simp] theorem Lane.arm_ring (x : Lane) : x.arm.ring = x.ring := rfl
@[simp] theorem Lane.arm_eligible (x : Lane) : x.arm.eligible = x.eligible := rfl

/-! ### Reading a route -/

@[simp] theorem State.route_setRoute (s : State) (r : RouteId) (t : Option Route) : (s.setRoute r t).route r = t := by
  simp [State.route, State.setRoute]

theorem State.route_setRoute_ne (s : State) {r q : RouteId} (t : Option Route) (h : q ≠ r) : (s.setRoute r t).route q = s.route q := by
  have : r.val ≠ q.val := fun e => h (Fin.ext e.symm)
  simp [State.route, State.setRoute, Vector.getElem_set_ne, this]

/-! ### Nothing comes first -/

/-- A settled state has nothing to take before an event. -/
theorem State.settle_of_settled {s : State} (h : s.settled = true) : s.settle = s := by
  simp only [State.settled, Bool.and_eq_true, bne_iff_ne, ne_eq] at h
  obtain ⟨h1, h2⟩ := h
  have ht : s.takeReset = s := by simp [State.takeReset, h1]
  rw [State.settle, ht, State.takeHoldLimit]
  cases hh : s.tx.hold with
  | none => rfl
  | some d =>
    simp only [hh, Bool.or_eq_true, beq_iff_eq, decide_eq_true_eq] at h2
    have : ¬(s.tx.holdLimit ≠ 0 ∧ s.tx.holdLimit ≤ d.timer ∧ d.stalled = false) := by
      rintro ⟨a, b, c⟩
      rcases h2 with (h2 | h2) | h2
      · simp [c] at h2
      · exact a h2
      · omega
    simp [this]

/-- An event that reaches the units as they stand is its effect. -/
theorem running_of_awake {s : State} (h : s.awake = true) (f : State → State) : running s f = .next (f s) := by
  simp only [State.awake, Bool.and_eq_true, Bool.not_eq_true'] at h
  simp [running, h.1, State.settle_of_settled h.2]

/-- A command that is about to execute is taken, has its body's effect, and is answered. -/
theorem command_of_ready {s : State} {c : Command} (h : s.ready c = true) {mine : Byte → Bool} (hc : mine c.code = true)
    (body : List Byte → State → Reaction) :
    running s (fun s => s.runCommand mine body) = .next ((body c.params s.takeCommand).reply c) := by
  simp only [State.ready, Bool.and_eq_true, beq_iff_eq] at h
  obtain ⟨⟨ha, hr⟩, hw⟩ := h
  rw [running_of_awake ha]
  cases hq : s.cmd.waiting with
  | nil => simp [hq] at hw
  | cons d rest =>
    obtain rfl : d = c := by simpa [hq] using hw
    simp [State.runCommand, hr, hq, hc]

/-- A refusal leaves the state it names as it was (R162). -/
theorem reply_refuse (s : State) (c : Command) (st : Status) : (refuse s.takeCommand st).reply c = s.answered c st [] := rfl

/-- An acceptance without effect. -/
theorem reply_accept (s : State) (c : Command) (r : List Byte) : (accept s.takeCommand r).reply c = s.answered c .ok r := rfl

end Sys2Proof.Machine
end

