-- ==== Sys2Proof/Laws/Items.lean ====
section
/-! SUPPORT. What the operations on an open item keep: its queueing part, the order of its marks and of its segments. -/

namespace Sys2Proof.Machine

/-- The record is in order and a pending speed change has room. -/
def OpenItem.Lawful (o : OpenItem) : Prop :=
  o.record.Lawful ∧ (o.pendingSpeed.isSome → o.record.segments.length < Config.segmentPlaces)

/-- An operation that keeps the queueing part, and keeps an item lawful. -/
def OpenItem.Keeps (o p : OpenItem) : Prop := p.queued = o.queued ∧ (o.Lawful → p.Lawful)

theorem OpenItem.Keeps.refl (o : OpenItem) : o.Keeps o := ⟨rfl, id⟩

theorem OpenItem.Keeps.trans {o p q : OpenItem} (h : o.Keeps p) (k : p.Keeps q) : o.Keeps q :=
  ⟨k.1.trans h.1, k.2 ∘ h.2⟩

/-- An item whose marks, segments, pending change and queueing part are those of another, and which is no shorter. -/
theorem OpenItem.keeps_of_same {o p : OpenItem} (hq : p.queued = o.queued) (hm : p.record.marks = o.record.marks)
    (hs : p.record.segments = o.record.segments) (hr : p.record.rate = o.record.rate) (hl : o.record.length ≤ p.record.length)
    (hp : p.pendingSpeed = o.pendingSpeed) : o.Keeps p := by
  refine ⟨hq, ?_⟩
  rintro ⟨⟨hmarks, s1, s2, s3, s4⟩, hpend⟩
  refine ⟨⟨by unfold Recording.MarksSorted; rw [hm]; exact hmarks, by rw [hs]; exact s1, by rw [hs]; exact s2,
    by rw [hs, hr]; exact s3, fun g hg => ?_⟩, by rw [hs, hp]; exact hpend⟩
  rw [hs] at hg
  exact (s4 g hg).trans hl

/-- The accounting state is no part of the order. -/
theorem OpenItem.Keeps.account {o p : OpenItem} (h : o.Keeps p) (a : Accounting) : o.Keeps { p with accounts := a } :=
  ⟨h.1, h.2⟩

/-! ### Marks -/

/-- An insertion adds the mark and nothing else. -/
theorem mem_insertMark {m x : Mark} {xs : List Mark} : x ∈ insertMark m xs ↔ x = m ∨ x ∈ xs := by
  induction xs with
  | nil => simp [insertMark]
  | cons y ys ih =>
    simp only [insertMark]
    split
    · simp only [List.mem_cons, ih]; tauto
    · simp

@[simp] theorem length_insertMark (m : Mark) (xs : List Mark) : (insertMark m xs).length = xs.length + 1 := by
  induction xs with
  | nil => rfl
  | cons y ys ih =>
    simp only [insertMark]
    split <;> simp [ih]

/-- An insertion into a sorted list leaves it sorted (R68). -/
theorem insertMark_sorted (m : Mark) {xs : List Mark} (h : xs.Pairwise fun a b => a.offset ≤ b.offset) :
    (insertMark m xs).Pairwise fun a b => a.offset ≤ b.offset := by
  induction xs with
  | nil => simp [insertMark]
  | cons y ys ih =>
    simp only [insertMark]
    rw [List.pairwise_cons] at h
    split
    · rename_i hle
      rw [List.pairwise_cons]
      refine ⟨fun x hx => ?_, ih h.2⟩
      rcases mem_insertMark.1 hx with rfl | hx
      · exact hle
      · exact h.1 x hx
    · rename_i hlt
      rw [List.pairwise_cons]
      refine ⟨fun x hx => ?_, List.pairwise_cons.2 h⟩
      rcases List.mem_cons.1 hx with rfl | hx
      · omega
      · exact le_trans (by omega) (h.1 x hx)

/-- The marks of an insertion, in another order. -/
theorem insertMark_perm (m : Mark) (xs : List Mark) : (insertMark m xs).Perm (m :: xs) := by
  induction xs with
  | nil => exact .refl _
  | cons y ys ih =>
    simp only [insertMark]
    split
    · exact (ih.cons y).trans (.swap m y ys)
    · exact .refl _

/-- Raising a mark keeps everything but the marks list and its truncation. -/
theorem OpenItem.raiseMark_spec (o : OpenItem) (m : Mark) :
    ∃ marks dropped flags, (o.raiseMark m).1 = { o with record := { o.record with marks := marks, droppedMarks := dropped, flags := flags } } ∧
      (m.serial = o.record.marks.length → o.record.MarksSorted →
        ({ o.record with marks := marks, droppedMarks := dropped, flags := flags } : Recording).MarksSorted) := by
  unfold OpenItem.raiseMark
  split
  · rename_i h
    refine ⟨_, _, _, rfl, fun e ⟨_, h2, h3, h4⟩ => ⟨by simpa using h, insertMark_sorted m h2, fun x hx => ?_, ?_⟩⟩
    · simp only [length_insertMark]
      rcases mem_insertMark.1 hx with rfl | hx
      · omega
      · have := h3 x hx; omega
    · rw [((insertMark_perm m _).map _).nodup_iff, List.map_cons, List.nodup_cons]
      refine ⟨fun hm => ?_, h4⟩
      obtain ⟨x, hx, hs⟩ := List.mem_map.1 hm
      have := h3 x hx
      omega
  · exact ⟨_, _, _, rfl, fun _ hs => hs⟩

/-- Raising a mark under the serial that comes next. -/
theorem OpenItem.raiseMark_keeps (o : OpenItem) (m : Mark) (hs : m.serial = o.record.marks.length) : o.Keeps (o.raiseMark m).1 := by
  obtain ⟨marks, dropped, flags, h, hk⟩ := o.raiseMark_spec m
  rw [h]
  exact ⟨rfl, fun ⟨⟨hm, hseg⟩, hp⟩ => ⟨⟨hk hs hm, hseg⟩, hp⟩⟩

/-- Growth keeps everything but the marks, and the marks' offsets and serials when the change does. -/
theorem OpenItem.growMark_keeps (o : OpenItem) (ref : MarkRef) (f : Mark → Mark) (hf : ∀ m, (f m).offset = m.offset)
    (hg : ∀ m, (f m).serial = m.serial) : o.Keeps (o.growMark ref f).1 := by
  unfold OpenItem.growMark
  split
  · rename_i k
    have ho : ∀ m, (if m.serial = k then f m else m).offset = m.offset := fun m => by split <;> simp [hf]
    have hs : ∀ m, (if m.serial = k then f m else m).serial = m.serial := fun m => by split <;> simp [hg]
    refine ⟨rfl, fun ⟨⟨⟨h1, h2, h3, h4⟩, hseg⟩, hp⟩ => ⟨⟨⟨by simpa using h1, ?_, ?_, ?_⟩, hseg⟩, hp⟩⟩
    · rw [List.pairwise_map]
      exact h2.imp fun {a b} hab => by rw [ho, ho]; exact hab
    · intro x hx
      obtain ⟨y, hy, rfl⟩ := List.mem_map.1 hx
      rw [hs, List.length_map]
      exact h3 y hy
    · rw [List.map_map, show Mark.serial ∘ (fun m => if m.serial = k then f m else m) = Mark.serial from funext hs]
      exact h4
  · exact .refl o

/-- Growth of a mark in an item changed in its counts and flags alone. -/
theorem OpenItem.keeps_grown {o p : OpenItem} {ref : MarkRef} {f : Mark → Mark} {a : Accounting} (hq : p.queued = o.queued)
    (hm : p.record.marks = o.record.marks) (hs : p.record.segments = o.record.segments) (hr : p.record.rate = o.record.rate)
    (hl : p.record.length = o.record.length) (hp : p.pendingSpeed = o.pendingSpeed)
    (hf : ∀ m, (f m).offset = m.offset) (hg : ∀ m, (f m).serial = m.serial) :
    o.Keeps { (p.growMark ref f).1 with accounts := a } :=
  .account (.trans (keeps_of_same hq hm hs hr hl.ge hp) (growMark_keeps p ref f hf hg)) a

/-- A mark raised in an item changed in its counts and flags alone. -/
theorem OpenItem.keeps_raised {o p : OpenItem} {m : Mark} {a : Accounting} (hq : p.queued = o.queued)
    (hm : p.record.marks = o.record.marks) (hs : p.record.segments = o.record.segments) (hr : p.record.rate = o.record.rate)
    (hl : p.record.length = o.record.length) (hp : p.pendingSpeed = o.pendingSpeed) (hk : m.serial = p.record.marks.length) :
    o.Keeps { (p.raiseMark m).1 with accounts := a } :=
  .account (.trans (keeps_of_same hq hm hs hr hl.ge hp) (raiseMark_keeps p m hk)) a

theorem OpenItem.loseFrame_keeps (o : OpenItem) (n : Nat) : o.Keeps (o.loseFrame n) := by
  unfold OpenItem.loseFrame
  dsimp only
  split
  · exact keeps_grown rfl rfl rfl rfl rfl rfl (fun _ => rfl) fun _ => rfl
  · exact keeps_raised rfl rfl rfl rfl rfl rfl rfl

theorem OpenItem.keepFrame_keeps (o : OpenItem) : o.Keeps o.keepFrame := keeps_of_same rfl rfl rfl rfl le_rfl rfl

theorem OpenItem.concealFrame_keeps (o : OpenItem) (n : Nat) (f : Frame) : o.Keeps (o.concealFrame n f) := by
  unfold OpenItem.concealFrame
  split
  · dsimp only
    split
    · split
      · exact keeps_grown rfl rfl rfl rfl rfl rfl (fun _ => rfl) fun _ => rfl
      · exact keeps_raised rfl rfl rfl rfl rfl rfl rfl
    · exact keeps_raised rfl rfl rfl rfl rfl rfl rfl
  · exact .refl o

theorem OpenItem.peakFrame_keeps (o : OpenItem) (f : Frame) : o.Keeps (o.peakFrame f) := keeps_of_same rfl rfl rfl rfl le_rfl rfl

theorem OpenItem.takeRun_keeps (o : OpenItem) (n : Nat) (c : FrameCount) (run : OverloadRun) (a : Bool) : o.Keeps (o.takeRun n c run a) := by
  unfold OpenItem.takeRun
  dsimp only
  split
  · split
    · exact keeps_grown rfl rfl rfl rfl rfl rfl (fun _ => rfl) fun _ => rfl
    · exact keeps_raised rfl rfl rfl rfl rfl rfl rfl
  · exact keeps_raised rfl rfl rfl rfl rfl rfl rfl

theorem OpenItem.extendRun_keeps (o : OpenItem) (n : Nat) : o.Keeps (o.extendRun n) := by
  unfold OpenItem.extendRun
  split
  · exact keeps_grown (p := o) rfl rfl rfl rfl rfl rfl (fun _ => rfl) fun _ => rfl
  · exact .refl o

theorem OpenItem.overloadFrame_keeps (o : OpenItem) (n : Nat) (c : FrameCount) (r : RunReport) (p : Option OverloadRun) (a : Bool) :
    o.Keeps (o.overloadFrame n c r p a) := by
  unfold OpenItem.overloadFrame
  split
  · split
    · exact takeRun_keeps ..
    · exact .refl o
  · exact takeRun_keeps ..
  · exact extendRun_keeps ..
  · exact .refl o

theorem OpenItem.growSilence_keeps (o : OpenItem) : o.Keeps o.growSilence := by
  unfold OpenItem.growSilence
  split
  · exact keeps_grown (p := o) rfl rfl rfl rfl rfl rfl (fun _ => rfl) fun _ => rfl
  · exact .refl o

theorem OpenItem.declare_keeps (o : OpenItem) (c : FrameCount) (d : Option Declaration) : o.Keeps (o.declare c d) := by
  unfold OpenItem.declare
  split
  · exact .refl o
  · split
    · exact keeps_raised (p := o) rfl rfl rfl rfl rfl rfl rfl
    · exact keeps_of_same rfl rfl rfl rfl le_rfl rfl
    · exact .refl o

theorem OpenItem.relock_keeps (o : OpenItem) (n ms : Nat) : o.Keeps (o.relock n ms) := by
  unfold OpenItem.relock
  have h := raiseMark_keeps o (o.record.newMark .dropout n ms false false) rfl
  exact ⟨h.1, fun k => ⟨⟨(h.2 k).1.1, (h.2 k).1.2⟩, (h.2 k).2⟩⟩

theorem OpenItem.cueMark_keeps (o : OpenItem) : o.Keeps o.cueMark := raiseMark_keeps o _ rfl

@[simp] theorem Recording.reckon_marks (r : Recording) : r.reckon.marks = r.marks := by cases r; rfl
@[simp] theorem Recording.reckon_segments (r : Recording) : r.reckon.segments = r.segments := by cases r; rfl
@[simp] theorem Recording.reckon_rate (r : Recording) : r.reckon.rate = r.rate := by cases r; rfl
@[simp] theorem Recording.reckon_length (r : Recording) : r.reckon.length = r.length := by cases r; rfl
@[simp] theorem Recording.reckon_blocks (r : Recording) : r.reckon.blocks = r.blocks := by cases r; rfl
@[simp] theorem Recording.reckon_programme (r : Recording) : r.reckon.programme = r.prog r.length := by cases r; rfl

/-- Reckoning the programme length and noting the first live frame are no part of the order. -/
theorem OpenItem.Keeps.reckon {o p : OpenItem} (h : o.Keeps p) (live : Bool) : o.Keeps { p with live := live, record := p.record.reckon } :=
  h.trans (keeps_of_same rfl (Recording.reckon_marks _) (Recording.reckon_segments _) (Recording.reckon_rate _) (Recording.reckon_length _).ge rfl)

theorem OpenItem.finishFrame_keeps (o : OpenItem) (rep : FrameReport) : o.Keeps (o.finishFrame rep) :=
  ((((overloadFrame_keeps ..).trans (overloadFrame_keeps ..)).trans (growSilence_keeps _)).trans (declare_keeps ..)).reckon true

/-! ### Speed segments -/

/-- At or beyond the last segment's start, that segment contains the offset (R55). -/
theorem segmentAt_last {segs : List Segment} {g : Segment} (hg : segs.getLast? = some g) {n : Nat} (h : ∀ x ∈ segs, x.start ≤ n) :
    segmentAt segs n = g := by
  unfold segmentAt
  rw [List.filter_eq_self.2 (by simpa using h), hg]
  rfl

/-- A ratio taking effect keeps the segments in order when there is room for one more (R63). -/
theorem Recording.changeSpeed_lawful (r : Recording) (ratio : Ratio) (h : r.Lawful) (hlt : r.segments.length < Config.segmentPlaces) :
    (r.changeSpeed ratio).Lawful := by
  obtain ⟨hm, h2, ⟨g0, h3, h30, h31⟩, h4, h5⟩ := h
  unfold Recording.changeSpeed
  cases hl : r.segments.getLast? with
  | none => simp [List.getLast?_eq_none_iff.1 hl] at h3
  | some g =>
    have hne : r.segments ≠ [] := by rintro e; simp [e] at hl
    obtain ⟨init, hinit⟩ : ∃ init, r.segments = init ++ [g] := ⟨r.segments.dropLast, by
      rw [List.getLast?_eq_some_getLast hne, Option.some.injEq] at hl
      rw [← hl, List.dropLast_append_getLast hne]⟩
    have hat := segmentAt_last hl h5
    dsimp only
    split
    · refine ⟨hm, ?_⟩
      rw [hinit] at h2 h3 h4 h5
      simp only [hinit, List.dropLast_concat, Recording.SegmentsLawful]
      refine ⟨by simpa using h2, ?_, ?_, ?_⟩
      · cases init with
        | nil =>
          obtain rfl : g = g0 := by simpa using h3
          exact ⟨_, rfl, h30, h31⟩
        | cons a as => exact ⟨g0, by simpa using h3, h30, h31⟩
      · rw [List.isChain_append] at h4 ⊢
        exact ⟨h4.1, by simp, fun a ha b hb => by
          obtain rfl : b = { g with ratio := ratio } := by simpa using hb.symm
          exact h4.2.2 a ha g (by simp)⟩
      · intro x hx
        rcases List.mem_append.1 hx with hx | hx
        · exact h5 x (List.mem_append_left _ hx)
        · obtain rfl := List.mem_singleton.1 hx
          exact h5 g (by simp)
    · rename_i hne2
      have hg : g.start < r.length := lt_of_le_of_ne (h5 g (by simp [hinit])) hne2
      refine ⟨hm, ?_⟩
      simp only [Recording.SegmentsLawful]
      refine ⟨by simpa using hlt, ⟨g0, ?_, h30, h31⟩, ?_, ?_⟩
      · cases hs : r.segments with
        | nil => exact absurd hs hne
        | cons a as => simpa [hs] using h3
      · rw [List.isChain_append]
        refine ⟨h4, by simp, fun a ha b hb => ?_⟩
        obtain rfl : g = a := by simpa [hl] using ha
        obtain rfl : b = ⟨r.length, ratio, r.prog r.length⟩ := by simpa using hb.symm
        exact ⟨hg, by simp only [Recording.prog, hat]⟩
      · intro x hx
        rcases List.mem_append.1 hx with hx | hx
        · exact h5 x hx
        · obtain rfl := List.mem_singleton.1 hx
          exact le_rfl

theorem OpenItem.takeSpeed_keeps (o : OpenItem) : o.Keeps o.takeSpeed := by
  unfold OpenItem.takeSpeed
  split
  · rename_i ratio h
    exact ⟨rfl, fun ⟨hr, hp⟩ => ⟨Recording.changeSpeed_lawful _ _ hr (hp (by simp [h])), by simp⟩⟩
  · exact .refl o

theorem OpenItem.append_keeps (o : OpenItem) (b : Buffer) (f : Frame) : o.Keeps (o.append b f) := keeps_of_same rfl rfl rfl rfl le_rfl rfl

theorem OpenItem.emitted_keeps (o : OpenItem) : o.Keeps o.emitted := keeps_of_same rfl rfl rfl rfl le_rfl rfl

/-- A record as it begins is in order (R32). -/
theorem OpenItem.begin_lawful (q : Queued) (use : InUse) (p : Profile) (c : FrameCount) : (OpenItem.begin q use p c).Lawful := by
  refine ⟨⟨⟨?_, ?_⟩, ?_⟩, by simp [OpenItem.begin]⟩
  · simp [OpenItem.begin]
  · simp [OpenItem.begin]
  · simp [OpenItem.begin, Recording.SegmentsLawful, Config.segmentPlaces]

end Sys2Proof.Machine
end

