-- ==== Sys2Proof/Laws/Engine.lean ====
section
/-! SUPPORT. What the cutting engine and the block memory do to the part: the moves of records they make, and everything else they leave. -/

namespace Sys2Proof.Machine

/-- Everything but the lanes, the item table, the block memory, the event unit and the monitor ports is as it was. -/
def State.Far (s t : State) : Prop :=
  t.tx = s.tx ∧ t.rx = s.rx ∧ t.cmd = s.cmd ∧ t.routes = s.routes ∧ t.resetLow = s.resetLow ∧
    t.freeDraws = s.freeDraws ∧ t.pending = s.pending

theorem State.Far.refl (s : State) : s.Far s := ⟨rfl, rfl, rfl, rfl, rfl, rfl, rfl⟩

theorem State.Far.trans {s t u : State} (h : s.Far t) (k : t.Far u) : s.Far u := by
  obtain ⟨h1, h2, h3, h4, h5, h6, h7⟩ := h
  obtain ⟨k1, k2, k3, k4, k5, k6, k7⟩ := k
  exact ⟨k1.trans h1, k2.trans h2, k3.trans h3, k4.trans h4, k5.trans h5, k6.trans h6, k7.trans h7⟩

/-- One lane seen from the item table: its queue and profile are kept, and its open item, if any, is the same one, kept lawful. -/
def Lane.Near (x y : Lane) : Prop :=
  y.queue = x.queue ∧ y.profile = x.profile ∧
    ((x.item = none ∧ y.item = none) ∨ ∃ o p, x.item = some o ∧ y.item = some p ∧ o.Keeps p)

theorem Lane.Near.refl (x : Lane) : x.Near x := by
  refine ⟨rfl, rfl, ?_⟩
  cases h : x.item with
  | none => exact .inl ⟨rfl, rfl⟩
  | some o => exact .inr ⟨o, o, rfl, rfl, .refl o⟩

theorem Lane.Near.trans {x y z : Lane} (h : x.Near y) (k : y.Near z) : x.Near z := by
  obtain ⟨h1, h2, h3⟩ := h
  obtain ⟨k1, k2, k3⟩ := k
  refine ⟨k1.trans h1, k2.trans h2, ?_⟩
  rcases h3 with ⟨a, b⟩ | ⟨o, p, a, b, c⟩ <;> rcases k3 with ⟨d, e⟩ | ⟨o', p', d, e, f⟩
  · exact .inl ⟨a, e⟩
  · simp [b] at d
  · simp [b] at d
  · obtain rfl : p = o' := by simpa [b] using d
    exact .inr ⟨o, p', a, e, c.trans f⟩

/-- A lane whose queue, profile and open item are kept. -/
theorem Lane.near_of_same {x y : Lane} (hq : y.queue = x.queue) (hp : y.profile = x.profile) (hi : y.item = x.item) : x.Near y := by
  obtain ⟨a, b, c⟩ := Lane.Near.refl x
  refine ⟨hq, hp, ?_⟩
  rw [hi]
  exact c

/-- Nothing moves between collections: the table is as it was and every lane is near what it was. -/
def State.Inner (s t : State) : Prop := s.Far t ∧ t.table = s.table ∧ ∀ k, (s.lane k).Near (t.lane k)

theorem State.Inner.refl (s : State) : s.Inner s := ⟨.refl s, rfl, fun _ => .refl _⟩

theorem State.Inner.trans {s t u : State} (h : s.Inner t) (k : t.Inner u) : s.Inner u :=
  ⟨h.1.trans k.1, k.2.1.trans h.2.1, fun l => (h.2.2 l).trans (k.2.2 l)⟩

/-- A state that differs in block memory, events and monitor ports alone. -/
theorem State.inner_of_lanes {s t : State} (hf : s.Far t) (ht : t.table = s.table) (hl : t.lanes = s.lanes) : s.Inner t :=
  ⟨hf, ht, fun k => by rw [State.lane_congr hl]; exact .refl _⟩

theorem State.mapLane_inner (s : State) (l : LaneId) (f : Lane → Lane) (h : (s.lane l).Near (f (s.lane l))) : s.Inner (s.mapLane l f) := by
  refine ⟨.refl s, rfl, fun k => ?_⟩
  rw [State.lane_mapLane_eq]
  split
  · subst k; exact h
  · exact .refl _

theorem State.setLane_inner (s : State) (l : LaneId) (x : Lane) (h : (s.lane l).Near x) : s.Inner (s.setLane l x) :=
  s.mapLane_inner l (fun _ => x) h

theorem State.mapItem_inner (s : State) (l : LaneId) (f : OpenItem → OpenItem) (h : ∀ o, (s.lane l).item = some o → o.Keeps (f o)) :
    s.Inner (s.mapItem l f) := by
  refine s.mapLane_inner l _ ⟨rfl, rfl, ?_⟩
  cases hi : (s.lane l).item with
  | none => exact .inl ⟨rfl, rfl⟩
  | some o => exact .inr ⟨o, f o, rfl, rfl, h o hi⟩

theorem State.raise_inner (s : State) (f : Flag) (i : Item) : s.Inner (s.raise f i) := inner_of_lanes (.refl s) rfl rfl

theorem State.enqueue_inner (s : State) (b : Block) : s.Inner (s.enqueue b) := inner_of_lanes (.refl s) rfl rfl

theorem State.startWaiting_inner (s : State) (l : LaneId) : s.Inner (s.startWaiting l) := inner_of_lanes (.refl s) rfl rfl

theorem State.stopWaiting_inner (s : State) (l : LaneId) : s.Inner (s.stopWaiting l) := inner_of_lanes (.refl s) rfl rfl

theorem State.deliverLive_inner (s : State) (l : LaneId) (c : Channels) (f : Frame) : s.Inner (s.deliverLive l c f) :=
  inner_of_lanes (.refl s) rfl rfl

theorem State.giveBuffer_inner (s : State) (l : LaneId) : s.Inner (s.giveBuffer l) :=
  s.mapItem_inner l _ fun _ _ => OpenItem.keeps_of_same rfl rfl rfl rfl le_rfl rfl

/-! ### The block memory -/

theorem State.finishFull_inner (s : State) (l : LaneId) : s.Inner (s.finishFull l) := by
  unfold State.finishFull
  split
  · split
    · split
      · exact (s.enqueue_inner _).trans (State.mapItem_inner _ _ _ fun o _ => o.emitted_keeps)
      · exact .refl s
    · exact .refl s
  · exact .refl s

theorem State.requestBuffer_inner (s : State) (l : LaneId) : s.Inner (s.requestBuffer l) := by
  unfold State.requestBuffer
  split
  · exact .refl s
  · split
    · exact s.giveBuffer_inner l
    · exact s.startWaiting_inner l

theorem State.grantLoop_inner (n : Nat) (s : State) : s.Inner (State.grantLoop n s) := by
  induction n generalizing s with
  | zero => exact .refl s
  | succ n ih =>
    unfold State.grantLoop
    split
    · exact ((s.stopWaiting_inner _).trans (State.giveBuffer_inner _ _)).trans (ih _)
    · exact .refl s

theorem State.grant_inner (s : State) : s.Inner s.grant := State.grantLoop_inner _ s

theorem State.placeFrame_inner (s : State) (l : LaneId) (f : Frame) : s.Inner (s.placeFrame l f).1 := by
  unfold State.placeFrame
  have h : s.Inner (if (s.lane l).hasBuffer then s else s.requestBuffer l) := by
    split
    · exact .refl s
    · exact s.requestBuffer_inner l
  dsimp only
  split
  · split
    · exact (h.trans (State.mapItem_inner _ _ _ fun o _ => o.append_keeps _ f)).trans (State.finishFull_inner _ _)
    · exact h.trans (State.mapItem_inner _ _ _ fun o _ => OpenItem.keeps_of_same rfl rfl rfl rfl le_rfl rfl)
  · exact h

theorem State.passFrame_inner (s : State) (l : LaneId) (f : Frame) : s.Inner (s.passFrame l f) := by
  unfold State.passFrame
  split
  · rename_i o ho
    dsimp only
    have h1 : s.Inner (s.mapItem l fun o' => { o' with record := { o'.record with length := o.record.length + 1 } }) :=
      s.mapItem_inner l _ fun p hp => by
        obtain rfl : o = p := by simpa [ho] using hp
        exact OpenItem.keeps_of_same rfl rfl rfl rfl (Nat.le_succ _) rfl
    have h2 := h1.trans (State.placeFrame_inner _ l f)
    refine (h2.trans ?_).trans (State.mapItem_inner _ _ _ fun p _ => ?_)
    · split
      · exact State.raise_inner _ _ _
      · exact .refl _
    · refine .trans (.trans ?_ (OpenItem.concealFrame_keeps _ _ _)) (OpenItem.peakFrame_keeps _ _)
      split
      · exact p.keepFrame_keeps
      · exact p.loseFrame_keeps _
  · exact .refl s

theorem State.passFrames_inner (s : State) (l : LaneId) (fs : List Frame) :
    s.Inner (fs.foldl (fun s f => s.passFrame l f) s) := by
  induction fs generalizing s with
  | nil => exact .refl s
  | cons f fs ih => exact (s.passFrame_inner l f).trans (ih _)

theorem State.lastEntry_inner (s : State) (l : LaneId) (o : OpenItem) (r : CloseReason) : s.Inner (s.lastEntry l o r) := by
  unfold State.lastEntry
  dsimp only
  split
  · split
    · exact ((s.enqueue_inner _).trans (State.mapItem_inner _ _ _ fun o _ => o.emitted_keeps)).trans (State.grant_inner _)
    · exact (s.enqueue_inner _).trans (State.mapItem_inner _ _ _ fun o _ => o.emitted_keeps)
  · exact ((s.enqueue_inner _).trans (State.mapItem_inner _ _ _ fun o _ => o.emitted_keeps)).trans (State.stopWaiting_inner _ _)

/-! ### Moves of records -/

/-- Two states alike in every lane but `l`, up to the inner workings of their open items, and in everything far. -/
def State.Beside (l : LaneId) (s t : State) : Prop := s.Far t ∧ ∀ k, k ≠ l → (s.lane k).Near (t.lane k)

/-- The open item of lane `l` closes: its record goes to the tail of the closed list (R39), lawful when it was. -/
def State.Closes (l : LaneId) (s t : State) : Prop :=
  s.Beside l t ∧ (t.lane l).queue = (s.lane l).queue ∧ (t.lane l).profile = (s.lane l).profile ∧ (t.lane l).item = none ∧
    t.table.pool = s.table.pool ∧ ∃ o c, (s.lane l).item = some o ∧ t.table.closed = s.table.closed ++ [c] ∧
      c.queued = o.queued ∧ c.lane = l ∧ (o.Lawful → c.record.Lawful)

/-- The head of lane `l` opens: its record goes from the queue to the empty open slot (R32), lawful as it begins. -/
def State.Opens (l : LaneId) (s t : State) : Prop :=
  s.Beside l t ∧ (t.lane l).profile = (s.lane l).profile ∧ (s.lane l).item = none ∧ t.table = s.table ∧
    ∃ q o, (s.lane l).queue = q :: (t.lane l).queue ∧ (t.lane l).item = some o ∧ o.queued = q ∧ o.Lawful

/-- What the cutting engines do to the table: nothing, or openings and closings one after another. -/
inductive State.Moves : State → State → Prop
  | inner {s t : State} : s.Inner t → Moves s t
  | closes {s t : State} (l : LaneId) : s.Closes l t → Moves s t
  | opens {s t : State} (l : LaneId) : s.Opens l t → Moves s t
  | trans {s t u : State} : Moves s t → Moves t u → Moves s u

theorem State.Moves.refl (s : State) : s.Moves s := .inner (.refl s)

theorem State.Moves.far {s t : State} (h : s.Moves t) : s.Far t := by
  induction h with
  | inner h => exact h.1
  | closes l h => exact h.1.1
  | opens l h => exact h.1.1
  | trans _ _ h k => exact h.trans k

theorem State.Moves.profile {s t : State} (h : s.Moves t) (k : LaneId) : (t.lane k).profile = (s.lane k).profile := by
  induction h with
  | inner h => exact (h.2.2 k).2.1
  | @closes s t l h =>
    by_cases e : k = l
    · subst e; exact h.2.2.1
    · exact (h.1.2 k e).2.1
  | @opens s t l h =>
    by_cases e : k = l
    · subst e; exact h.2.1
    · exact (h.1.2 k e).2.1
  | trans _ _ h k => exact k.trans h

/-- The arming of the next head leaves the lanes near what they were (R39). -/
theorem State.armNext_inner (s : State) (l : LaneId) (r : CloseReason) : s.Inner (s.armNext l r) := by
  unfold State.armNext
  split
  · exact .refl s
  · exact s.mapLane_inner l _ (Lane.near_of_same rfl rfl rfl)

/-- What follows a close leaves it a close. -/
theorem State.Closes.inner {l : LaneId} {s t u : State} (h : s.Closes l t) (k : t.Inner u) : s.Closes l u := by
  obtain ⟨⟨h1, h2⟩, h3, h4, h5, h6, o, c, h7, h8, h9⟩ := h
  obtain ⟨k1, k2, k3⟩ := k
  refine ⟨⟨h1.trans k1, fun m hm => (h2 m hm).trans (k3 m)⟩, (k3 l).1.trans h3, (k3 l).2.1.trans h4, ?_, by rw [k2, h6],
    o, c, h7, by rw [k2, h8], h9⟩
  rcases (k3 l).2.2 with ⟨_, e⟩ | ⟨p, _, e, _⟩
  · exact e
  · simp [h5] at e

/-- A close, by the actions of R39: one record moves and nothing else is disturbed. -/
theorem State.closeItem_closes (s : State) (l : LaneId) (r : CloseReason) {o : OpenItem} (ho : (s.lane l).item = some o) :
    s.Closes l (s.closeItem l r) := by
  unfold State.closeItem
  rw [ho]
  dsimp only
  generalize hc : o.closing r = o'
  obtain ⟨hf, ht, hl⟩ := s.lastEntry_inner l o' r
  generalize s.lastEntry l o' r = t at hf ht hl ⊢
  have hq : o'.queued = o.queued := by rw [← hc]; rfl
  have hlaw : o.Lawful → (o'.filed l r).record.Lawful := by
    rw [← hc]; exact fun h => ⟨h.1.1, h.1.2⟩
  have base : s.Closes l ((t.mapLane l fun x => x.vacate o'.lastFrame).file (o'.filed l r)) := by
    refine ⟨⟨hf, fun k hk => ?_⟩, ?_, ?_, ?_, ?_, o, o'.filed l r, ho, ?_, hq, rfl, hlaw⟩
    · simpa [State.lane_mapLane_ne _ _ hk] using hl k
    · simpa using (hl l).1
    · simpa using (hl l).2.1
    · simp
    · simp [State.file, ht]
    · simp [State.file, ht]
  exact (base.inner (State.raise_inner _ _ _)).inner (State.armNext_inner _ _ _)

theorem State.closeItem_moves (s : State) (l : LaneId) (r : CloseReason) : s.Moves (s.closeItem l r) := by
  cases ho : (s.lane l).item with
  | some o => exact .closes l (s.closeItem_closes l r ho)
  | none => simpa [State.closeItem, ho] using State.Moves.refl s

/-! ### The engine's events -/

/-- The opening of a head on an empty open slot: one record moves, and a LENGTH close may follow at once (R32, R35). -/
theorem State.openHead_moves (s : State) (l : LaneId) (first : FrameCount) (cs : List Frame) (use : InUse)
    (hi : (s.lane l).item = none) : s.Moves (s.openHead l first cs use) := by
  unfold State.openHead
  dsimp only
  split
  · rename_i q rest hq
    generalize ho : OpenItem.begin q use (s.lane l).profile (first - BitVec.ofNat 48 (prerollOf q cs).length) = o
    have hlaw : o.Lawful := by rw [← ho]; exact OpenItem.begin_lawful ..
    have hqueued : o.queued = q := by rw [← ho]; rfl
    have base : s.Opens l (s.setLane l { s.lane l with queue := rest, item := some o }) := by
      refine ⟨⟨.refl s, fun k hk => ?_⟩, by simp, hi, rfl, q, o, by simp [hq], by simp, hqueued, hlaw⟩
      rw [State.lane_setLane_ne _ _ hk]
      exact .refl _
    generalize s.setLane l { s.lane l with queue := rest, item := some o } = t at base ⊢
    have h1 : t.Inner (((prerollOf q cs).foldl (fun s f => s.passFrame l f) (t.requestBuffer l)).mapItem l
        fun o => { o with record := o.record.reckon }) :=
      ((State.requestBuffer_inner _ _).trans (State.passFrames_inner _ _ _)).trans
        (State.mapItem_inner _ _ _ fun o _ => OpenItem.keeps_of_same rfl (Recording.reckon_marks _) (Recording.reckon_segments _)
          (Recording.reckon_rate _) (Recording.reckon_length _).ge rfl)
    have h2 := h1.trans (State.raise_inner _ (.lane l .itemOpened) q.item)
    refine .trans (.opens l base) (.trans (.inner h2) ?_)
    split
    · split
      · exact State.closeItem_moves _ _ _
      · exact .refl _
    · exact .refl _
  · exact .refl s

theorem State.openNow_moves (s : State) (l : LaneId) (hi : (s.lane l).item = none) : s.Moves (s.openNow l) :=
  s.openHead_moves l _ _ _ hi

theorem State.itemFrame_moves (s : State) (l : LaneId) (rep : FrameReport) : s.Moves (s.itemFrame l rep) := by
  unfold State.itemFrame
  dsimp only
  have h : s.Inner (((s.mapItem l OpenItem.takeSpeed).passFrame l rep.frame).mapItem l fun o => o.finishFrame rep) :=
    ((State.mapItem_inner _ _ _ fun o _ => o.takeSpeed_keeps).trans (State.passFrame_inner _ _ _)).trans
      (State.mapItem_inner _ _ _ fun o _ => o.finishFrame_keeps rep)
  refine .trans (.inner h) ?_
  split
  · split
    · exact State.closeItem_moves _ _ _
    · exact .refl _
  · exact .refl _

theorem State.engineFrame_moves (s : State) (l : LaneId) (rep : FrameReport) : s.Moves (s.engineFrame l rep) := by
  unfold State.engineFrame
  split
  · exact .refl s
  · split
    · exact s.itemFrame_moves l rep
    · rename_i hi _
      split
      · exact s.openNow_moves l hi
      · exact .refl s
    · exact .refl s

/-- A lane whose IMMEDIATE head opens has an empty open slot. -/
theorem Lane.opensBefore_item {x : Lane} (h : x.opensBefore = true) : x.item = none := by
  simp only [Lane.opensBefore, Bool.and_eq_true, Option.isNone_iff_eq_none] at h
  exact h.1.2

theorem State.openBefore_moves (n : Nat) (s : State) (l : LaneId) (slot : Slot) : s.Moves (State.openBefore n s l slot) := by
  induction n generalizing s with
  | zero => exact .refl s
  | succ n ih =>
    unfold State.openBefore
    dsimp only
    split
    · rename_i h
      exact .trans (State.openHead_moves _ _ _ _ _ (Lane.opensBefore_item h)) (ih _)
    · exact .refl s

theorem State.loseLock_moves (s : State) (l : LaneId) : s.Moves (s.loseLock l) := by
  unfold State.loseLock
  split
  · split
    · exact .refl s
    · split
      · exact s.closeItem_moves l _
      · exact .inner (s.mapItem_inner l _ fun o _ => ⟨rfl, id⟩)
  · exact .refl s

theorem State.expireDropout_moves (s : State) (l : LaneId) : s.Moves (s.expireDropout l) := by
  unfold State.expireDropout
  split
  · split
    · exact s.closeItem_moves l _
    · exact .refl s
  · exact .refl s

theorem State.expireOverdue_moves (s : State) (l : LaneId) (ms : Nat) : s.Moves (s.expireOverdue l ms) := by
  unfold State.expireOverdue
  split
  · split
    · exact s.expireDropout_moves l
    · exact .refl s
  · exact .refl s

theorem State.regainLock_moves (s : State) (l : LaneId) (ms : Nat) : s.Moves (s.regainLock l ms) := by
  refine .inner (s.mapItem_inner l _ fun o _ => ?_)
  split
  · exact o.relock_keeps _ _
  · exact .refl o

theorem State.cueEdge_moves (s : State) (l : LaneId) : s.Moves (s.cueEdge l) := by
  unfold State.cueEdge
  dsimp only
  split
  · exact .refl s
  · split
    · exact s.closeItem_moves l _
    · exact .refl s
  · rename_i hi _
    split
    · exact s.openNow_moves l hi
    · exact .refl s
  · exact .refl s
  · exact .inner (s.mapItem_inner l _ fun o _ => o.cueMark_keeps)
  · exact .refl s

/-! ### The lane port and the cue unit -/

/-- A change of a lane outside its queue, profile and open slot. -/
theorem State.mapLane_moves (s : State) (l : LaneId) (f : Lane → Lane) (hq : ∀ x, (f x).queue = x.queue)
    (hp : ∀ x, (f x).profile = x.profile) (hi : ∀ x, (f x).item = x.item) : s.Moves (s.mapLane l f) :=
  .inner (s.mapLane_inner l f (Lane.near_of_same (hq _) (hp _) (hi _)))

theorem State.restartMeasurement_moves (s : State) (l : LaneId) : s.Moves (s.restartMeasurement l) := by
  unfold State.restartMeasurement
  split
  · exact .refl s
  · refine .trans ?_ (.inner (State.raise_inner _ _ _))
    exact State.mapLane_moves _ l _ (fun _ => rfl) (fun _ => rfl) fun _ => rfl
  · exact s.mapLane_moves l _ (fun _ => rfl) (fun _ => rfl) fun _ => rfl

theorem State.acquireLock_moves (s : State) (l : LaneId) (ms : Nat) : s.Moves (s.acquireLock l ms) := by
  unfold State.acquireLock
  refine .trans (.trans ?_ (.inner (State.raise_inner _ (.lane l .lockChange) 0))) (State.regainLock_moves _ _ _)
  exact State.mapLane_moves _ l _ (fun _ => rfl) (fun _ => rfl) fun _ => rfl

theorem State.endWindow_moves (s : State) (l : LaneId) (n t ms : Nat) : s.Moves (s.endWindow l n t ms) := by
  unfold State.endWindow
  dsimp only
  split
  · exact .refl s
  · refine .trans (s.expireOverdue_moves l ms) ?_
    generalize s.expireOverdue l ms = u
    refine .trans (u.mapLane_moves l (fun x => { x with port :=
      ({ x.port with measured := measuredRate n t } : LanePort).beginWindow x.profile }) (fun _ => rfl) (fun _ => rfl) fun _ => rfl) ?_
    split
    · exact .refl _
    · refine .trans (.trans ?_ (.inner (State.raise_inner _ (.lane l .lockChange) 0))) (State.loseLock_moves _ _)
      exact State.mapLane_moves _ l _ (fun _ => rfl) (fun _ => rfl) fun _ => rfl
    · exact State.acquireLock_moves _ _ _
    · exact State.mapLane_moves _ l _ (fun _ => rfl) (fun _ => rfl) fun _ => rfl

theorem State.loseClock_moves (s : State) (l : LaneId) : s.Moves (s.loseClock l) := by
  unfold State.loseClock
  dsimp only
  split
  · exact .refl s
  · refine .trans (.trans ?_ (.inner (State.raise_inner _ (.lane l .lockChange) 0))) (State.loseLock_moves _ _)
    exact State.mapLane_moves _ l _ (fun _ => rfl) (fun _ => rfl) fun _ => rfl
  · exact State.mapLane_moves _ l _ (fun _ => rfl) (fun _ => rfl) fun _ => rfl

theorem State.takeSlot_moves (s : State) (l : LaneId) (slot : Slot) : s.Moves (s.takeSlot l slot) := by
  unfold State.takeSlot
  dsimp only
  have h1 : s.Inner (s.setLane l ((s.lane l).afterTaking slot)) := s.setLane_inner l _ (Lane.near_of_same rfl rfl rfl)
  generalize s.setLane l ((s.lane l).afterTaking slot) = t at h1 ⊢
  have h2 : t.Inner (if (s.lane l).passesQuality slot then t.raise (.lane l .quality) else t) := by
    split
    · exact t.raise_inner _ _
    · exact .refl t
  generalize (if (s.lane l).passesQuality slot then t.raise (.lane l .quality) else t) = u at h2 ⊢
  have h := (h1.trans h2).trans (u.deliverLive_inner l (s.lane l).inUse.channels ((s.lane l).frameTaken slot))
  split
  · exact .trans (.inner h) (State.restartMeasurement_moves _ _)
  · exact .inner h

theorem State.slotArrives_moves (s : State) (l : LaneId) (slot : Slot) : s.Moves (s.slotArrives l slot) := by
  unfold State.slotArrives
  dsimp only
  split
  · exact .trans (.trans (s.openBefore_moves _ l slot) (State.takeSlot_moves _ l slot)) (State.engineFrame_moves _ _ _)
  · generalize (s.lane l).arrive slot = arr
    have h : s.Moves (s.setLane l { s.lane l with port := arr.port }) := .inner (s.setLane_inner l _ (Lane.near_of_same rfl rfl rfl))
    split
    · exact .trans h (.trans (State.restartMeasurement_moves _ _) (State.closeItem_moves _ _ _))
    · exact h

theorem State.endDebounce_moves (s : State) (l : LaneId) : s.Moves (s.endDebounce l) := by
  unfold State.endDebounce
  dsimp only
  split
  · refine .trans (s.mapLane_moves l (fun x => { x with cue := { x.cue with level := x.cue.low, running := none } })
      (fun _ => rfl) (fun _ => rfl) fun _ => rfl) ?_
    split
    · exact State.cueEdge_moves _ _
    · exact .refl _
  · exact .refl s

end Sys2Proof.Machine
end

