-- ==== Sys2Proof/Laws/Frames.lean ====
section
/-! SUPPORT. What a frame makes of the open item, what an opening and what a close do, each said once in the terms of Safety. -/

namespace Sys2Proof.Machine

theorem sat_eq (limit n : Nat) : sat limit n = min limit n := Nat.min_comm _ _

/-! ### One lane written -/

@[simp] theorem State.setLane_setLane (s : State) (l : LaneId) (x y : Lane) : (s.setLane l x).setLane l y = s.setLane l y := by
  simp [State.setLane]

@[simp] theorem State.setLane_lane (s : State) (l : LaneId) : s.setLane l (s.lane l) = s := by
  cases s; simp [State.setLane, State.lane]

/-- A change of the open item where its lane has just been written. -/
theorem State.mapItem_setLane (s : State) (l : LaneId) (x : Lane) (f : OpenItem → OpenItem) :
    (s.setLane l x).mapItem l f = s.setLane l { x with item := x.item.map f } := by
  simp [State.mapItem, State.mapLane]

/-- A change of the open item writes its lane. -/
theorem State.mapItem_eq (s : State) (l : LaneId) (f : OpenItem → OpenItem) {o : OpenItem} (h : (s.lane l).item = some o) :
    s.mapItem l f = s.setLane l { s.lane l with item := some (f o) } := by
  simp [State.mapItem, State.mapLane, h]

/-- A grant depends on who holds buffers, the block memory, the packet in flight and the profile. -/
theorem State.canGrant_congr {s t : State} (hb : ∀ k, (t.lane k).hasBuffer = (s.lane k).hasBuffer) (hm : t.memory.queue = s.memory.queue)
    (ht : t.tx = s.tx) {l : LaneId} (hp : (t.lane l).profile = (s.lane l).profile) : t.canGrant l = s.canGrant l := by
  have held : ∀ k, t.held k = s.held k := fun k => by simp [State.held, State.blocksHeld, hb, hm, ht]
  have sum : t.held = s.held := funext held
  simp [State.canGrant, State.quotaInForce, State.freeBuffers, sum, hp]

/-- Writing a lane that keeps its buffer and its profile grants as before. -/
theorem State.canGrant_setLane (s : State) (l : LaneId) (x : Lane) (hb : x.hasBuffer = (s.lane l).hasBuffer)
    (hp : x.profile = (s.lane l).profile) (k : LaneId) : (s.setLane l x).canGrant k = s.canGrant k := by
  refine State.canGrant_congr (s := s) (t := s.setLane l x) (fun j => ?_) rfl rfl ?_
  · rw [State.lane_setLane_eq]; split
    · subst j; exact hb
    · rfl
  · rw [State.lane_setLane_eq]; split
    · subst k; exact hp
    · rfl

/-! ### Marks -/

/-- An insertion puts the mark behind every mark whose offset is not greater than its own, in a list whatever its order (R68). -/
theorem insertMark_split (m : Mark) (xs : List Mark) : ∃ before behind, xs = before ++ behind ∧ insertMark m xs = before ++ m :: behind ∧
    (∀ x ∈ before, x.offset ≤ m.offset) ∧ ∀ x, behind.head? = some x → m.offset < x.offset := by
  induction xs with
  | nil => exact ⟨[], [], rfl, rfl, by simp, by simp⟩
  | cons y ys ih =>
    simp only [insertMark]
    split
    · rename_i h
      obtain ⟨a, b, e, e', ha, hb⟩ := ih
      refine ⟨y :: a, b, by simp [e], by simp [e'], fun x hx => ?_, hb⟩
      rcases List.mem_cons.1 hx with rfl | hx
      · exact h
      · exact ha x hx
    · rename_i h
      exact ⟨[], y :: ys, rfl, rfl, by simp, fun x hx => by obtain rfl : y = x := by simpa using hx
                                                            omega⟩

/-- An item with another marks list, another count of dropped marks and another truncation flag. -/
def OpenItem.withMarks (o : OpenItem) (marks : List Mark) (dropped : Nat) (truncated : Bool) : OpenItem :=
  { o with record := { o.record with marks := marks, droppedMarks := dropped, flags := { o.record.flags with marksTruncated := truncated } } }

/-- All that raising a mark can do (R68). -/
theorem OpenItem.raiseMark_eq (o : OpenItem) (m : Mark) : ∃ marks dropped truncated ref,
    o.raiseMark m = (o.withMarks marks dropped truncated, ref) ∧ o.record.MarkRaised (o.withMarks marks dropped truncated).record m ref := by
  unfold OpenItem.raiseMark
  split
  · rename_i h
    obtain ⟨a, b, e, e', ha, hb⟩ := insertMark_split m o.record.marks
    exact ⟨_, o.record.droppedMarks, o.record.flags.marksTruncated, _, rfl, fun _ => ⟨rfl, rfl, rfl, a, b, e, e', ha, hb⟩,
      fun k => by simp only [Config.markPlaces] at h; omega⟩
  · rename_i h
    exact ⟨o.record.marks, _, true, _, rfl, fun k => by simp only [Config.markPlaces] at h; omega, fun _ => ⟨rfl, rfl, sat_eq _ _, rfl⟩⟩

/-- All that the growth of a mark can do (R69). -/
theorem OpenItem.growMark_eq (o : OpenItem) (ref : MarkRef) (f : Mark → Mark) : ∃ marks ref',
    o.growMark ref f = (o.withMarks marks o.record.droppedMarks o.record.flags.marksTruncated, ref') ∧
      o.record.MarkGrown (o.withMarks marks o.record.droppedMarks o.record.flags.marksTruncated).record ref ref' f := by
  cases ref
  · exact ⟨_, _, rfl, rfl, rfl, rfl, rfl⟩
  · exact ⟨o.record.marks, _, rfl, rfl, rfl, rfl, rfl⟩

/-! ### The overload and silence reports of a live frame -/

/-- What an overload report may change of the item. -/
def OpenItem.OverloadRest (o p : OpenItem) : Prop :=
  p = { o with
    accounts := { o.accounts with overload := p.accounts.overload }
    record := { o.record with
      overloads := p.record.overloads
      marks := p.record.marks
      droppedMarks := p.record.droppedMarks
      flags := { o.record.flags with marksTruncated := p.record.flags.marksTruncated } } }

/-- A run taken into the item at the frame just counted (R71). -/
theorem OpenItem.takeRun_taken (o : OpenItem) (counter : FrameCount) (run : OverloadRun) (inA : Bool) :
    o.OverloadRest (o.takeRun (o.record.length - 1) counter run inA) ∧
      o.RunTaken (o.takeRun (o.record.length - 1) counter run inA) counter run inA := by
  let o' : OpenItem := { o with record := { o.record with overloads := sat Config.count32 (o.record.overloads + 1) } }
  let first := o.record.length - 1 - (counter - run.first).toNat
  let samples := min ((counter - run.first).toNat + 1) (o.record.length - 1 + 1)
  let m : Mark := ⟨.overload, first, o.record.prog first, samples, inA, !inA, o.record.marks.length⟩
  let g : Mark → Mark := fun m => { m with extent := min 4294967295 (m.extent + samples), chA := m.chA || inA, chB := m.chB || !inA }
  let noted (r : OpenItem × MarkRef) : OpenItem := { r.1 with accounts := { r.1.accounts with overload := some ⟨r.2, o.record.length - 1⟩ } }
  have counted : o'.record.overloads = min 4294967295 (o.record.overloads + 1) := sat_eq _ _
  have grows : (fun m : Mark => { m with extent := sat Config.count32 (m.extent + samples), chA := m.chA || inA, chB := m.chB || !inA }) = g := by
    funext m; simp [g, sat_eq, Config.count32]
  by_cases near : ∃ c, o.accounts.overload = some c ∧ first ≤ c.last + 10 * (rateHz o.record.rate / 100)
  · obtain ⟨c, hc, k⟩ := near
    obtain ⟨ms, ref, h, hm⟩ := o'.growMark_eq c.mark g
    have e : o.takeRun (o.record.length - 1) counter run inA = noted (o'.growMark c.mark g) := by
      unfold OpenItem.takeRun
      dsimp only
      rw [hc]
      dsimp only
      rw [if_pos (by simpa only [windowFrames] using k), ← grows]
    rw [e, h]
    refine ⟨rfl, counted, fun far => ?_, fun c' hc' _ => ?_⟩
    · have := far c hc
      simp only [first] at k
      omega
    · obtain rfl : c = c' := Option.some.inj (hc.symm.trans hc')
      exact ⟨ref, rfl, hm⟩
  · have far : ∀ c, o.accounts.overload = some c → ¬first ≤ c.last + 10 * (rateHz o.record.rate / 100) := fun c hc k => near ⟨c, hc, k⟩
    obtain ⟨ms, d, t, ref, h, hm⟩ := o'.raiseMark_eq m
    have e : o.takeRun (o.record.length - 1) counter run inA = noted (o'.raiseMark m) := by
      unfold OpenItem.takeRun
      dsimp only
      split
      · rename_i c hc
        rw [if_neg (by simpa only [windowFrames] using far c hc)]; rfl
      · rfl
    rw [e, h]
    exact ⟨rfl, counted, fun _ => ⟨ref, rfl, hm⟩, fun c hc k => absurd k (far c hc)⟩

/-- A further clipped sample of a run (R71). -/
theorem OpenItem.extendRun_spec (o : OpenItem) :
    o.OverloadRest (o.extendRun (o.record.length - 1)) ∧ (o.accounts.overload = none → o.extendRun (o.record.length - 1) = o) ∧
      ∀ c, o.accounts.overload = some c → (o.extendRun (o.record.length - 1)).record.overloads = o.record.overloads ∧
        ∃ ref, (o.extendRun (o.record.length - 1)).accounts.overload = some ⟨ref, max c.last (o.record.length - 1)⟩ ∧
          o.record.MarkGrown (o.extendRun (o.record.length - 1)).record c.mark ref fun m => { m with extent := min 4294967295 (m.extent + 1) } := by
  have grows : (fun m : Mark => { m with extent := sat Config.count32 (m.extent + 1) }) = fun m => { m with extent := min 4294967295 (m.extent + 1) } := by
    funext m; simp [sat_eq, Config.count32]
  cases hc : o.accounts.overload with
  | none => 
    have e : o.extendRun (o.record.length - 1) = o := by simp [OpenItem.extendRun, hc]
    rw [e]
    exact ⟨rfl, fun _ => rfl, (nomatch · , ·)⟩
  | some c =>
    obtain ⟨ms, ref, h, hm⟩ := o.growMark_eq c.mark fun m => { m with extent := min 4294967295 (m.extent + 1) }
    have e : o.extendRun (o.record.length - 1) = { o.withMarks ms o.record.droppedMarks o.record.flags.marksTruncated with
        accounts := { o.accounts with overload := some ⟨ref, max c.last (o.record.length - 1)⟩ } } := by
      unfold OpenItem.extendRun
      rw [hc]
      dsimp only
      rw [grows, h]
      rfl
    rw [e]
    refine ⟨rfl, (nomatch ·), fun c' hc' => ?_⟩
    obtain rfl : c = c' := Option.some.inj hc'
    exact ⟨rfl, ref, rfl, hm⟩

/-- One channel's overload report at the frame just counted (R71, R106). -/
theorem OpenItem.overloadFrame_accounted (o : OpenItem) (counter : FrameCount) (report : RunReport) (inProgress : Option OverloadRun) (inA : Bool) :
    o.OverloadAccounted (o.overloadFrame (o.record.length - 1) counter report inProgress inA) counter report inProgress inA := by
  obtain ⟨rest, none_, some_⟩ := o.extendRun_spec
  unfold OpenItem.overloadFrame
  cases hl : o.live with
  | false =>
    have dead : o.live = true → False := fun h => by rw [hl] at h; cases h
    cases inProgress with
    | none => exact ⟨rfl, fun _ => ⟨fun _ h => (nomatch h), fun _ => rfl⟩, fun h => (dead h).elim⟩
    | some run =>
      dsimp only
      split
      · rename_i h
        refine ⟨(o.takeRun_taken ..).1, fun _ => ⟨fun r e => ?_, (nomatch ·)⟩, fun k => (dead k).elim⟩
        obtain rfl := Option.some.inj e
        exact ⟨fun _ => (o.takeRun_taken ..).2, fun k => by rw [h] at k; cases k⟩
      · rename_i h
        refine ⟨rfl, fun _ => ⟨fun r e => ?_, (nomatch ·)⟩, fun k => (dead k).elim⟩
        obtain rfl := Option.some.inj e
        exact ⟨fun k => absurd k h, fun _ => rfl⟩
  | true =>
    have alive : o.live = false → False := fun h => by rw [hl] at h; cases h
    cases report with
    | none => exact ⟨rfl, fun h => (alive h).elim, fun _ => ⟨fun _ h => (nomatch h), fun _ => rfl, (nomatch ·)⟩⟩
    | found run =>
      refine ⟨(o.takeRun_taken ..).1, fun h => (alive h).elim, fun _ => ⟨fun r e => ?_, (nomatch ·), (nomatch ·)⟩⟩
      obtain rfl := RunReport.found.inj e
      exact (o.takeRun_taken ..).2
    | further => exact ⟨rest, fun h => (alive h).elim, fun _ => ⟨fun _ h => (nomatch h), (nomatch ·), fun _ => ⟨none_, some_⟩⟩⟩

/-- The SILENCE mark at the frame just counted (R72). -/
theorem OpenItem.silence_accounted (o : OpenItem) (counter : FrameCount) (declared : Option Declaration) :
    o.SilenceAccounted (o.growSilence.declare counter declared) counter declared := by
  have grown : ∃ ms sil, o.growSilence = { o with accounts := { o.accounts with silence := sil }, record := { o.record with marks := ms } } ∧
      (o.accounts.silence = none → o.growSilence = o) ∧
      ∀ ref, o.accounts.silence = some ref → ∃ ref', sil = some ref' ∧
        o.record.MarkGrown o.growSilence.record ref ref' fun x => { x with extent := o.record.length - x.offset } := by
    cases hc : o.accounts.silence with
    | none =>
      have e : o.growSilence = o := by simp [OpenItem.growSilence, hc]
      exact ⟨o.record.marks, o.accounts.silence, e, fun _ => e, (nomatch · , ·)⟩
    | some ref =>
      obtain ⟨ms, ref', h, hm⟩ := o.growMark_eq ref fun x => { x with extent := o.record.length - x.offset }
      have e : o.growSilence = { o.withMarks ms o.record.droppedMarks o.record.flags.marksTruncated with
          accounts := { o.accounts with silence := some ref' } } := by
        unfold OpenItem.growSilence
        rw [hc]
        dsimp only
        rw [h]
        rfl
      refine ⟨ms, some ref', e, (nomatch ·), fun r hr => ⟨ref', rfl, ?_⟩⟩
      obtain rfl : ref = r := Option.some.inj hr
      rw [e]
      exact hm
  obtain ⟨ms, sil, e, same, grown⟩ := grown
  refine ⟨o.growSilence, by rw [e], same, fun ref h => ?_, fun h => ?_, fun h k => ?_, fun start h k => ?_⟩
  · obtain ⟨ref', h', hm⟩ := grown ref h
    exact ⟨ref', by rw [e]; exact h', hm⟩
  · have hq : o.growSilence.queued = o.queued := by rw [e]
    rcases h with h | rfl
    · simp [OpenItem.declare, hq, h]
    · simp [OpenItem.declare]
  · have hq : o.growSilence.queued = o.queued := by rw [e]
    simp [OpenItem.declare, hq, h, k]
  · have hq : o.growSilence.queued = o.queued := by rw [e]
    have hl : o.growSilence.record.length = o.record.length := by rw [e]
    subst k
    generalize o.growSilence = m at hq hl
    obtain ⟨ms, d, t, ref, h', hm⟩ := m.raiseMark_eq (m.record.newMark .silence (o.record.length - ((counter - start).toNat + 1))
      (o.record.length - (o.record.length - ((counter - start).toNat + 1))) false false)
    have e : m.declare counter (some (.silence start)) = { m.withMarks ms d t with accounts := { m.accounts with silence := some ref } } := by
      simp only [OpenItem.declare, hq, h, hl, Bool.false_eq_true, if_false, h']
      rfl
    rw [e]
    exact ⟨rfl, ref, rfl, hm⟩

/-! ### The frame itself -/

/-- A lost frame (R73): the count, the flag, and the OVERRUN mark opened or grown. -/
theorem OpenItem.loseFrame_eq (o : OpenItem) (n : Nat) : ∃ ms d t ref,
    (o.loseFrame n = { o.withMarks ms d t with
      accounts := { o.accounts with overrun := some ref }
      record := { (o.withMarks ms d t).record with
        lost := o.record.lost + 1
        flags := { o.record.flags with overrun := true, marksTruncated := t } } }) ∧
    (o.accounts.overrun = none →
      o.record.MarkRaised (o.withMarks ms d t).record ⟨.overrun, n, o.record.prog n, 1, false, false, o.record.marks.length⟩ ref) ∧
    ∀ ref', o.accounts.overrun = some ref' → o.record.MarkGrown (o.withMarks ms d t).record ref' ref fun m => { m with extent := m.extent + 1 } := by
  let o' : OpenItem := { o with record := { o.record with lost := o.record.lost + 1, flags := { o.record.flags with overrun := true } } }
  cases hc : o.accounts.overrun with
  | none =>
    obtain ⟨ms, d, t, ref, h, hm⟩ := o'.raiseMark_eq (o'.record.newMark .overrun n 1 false false)
    refine ⟨ms, d, t, ref, ?_, fun _ => hm, (nomatch · , ·)⟩
    unfold OpenItem.loseFrame
    dsimp only
    rw [hc]
    dsimp only
    rw [h]
    rfl
  | some ref' =>
    obtain ⟨ms, ref, h, hm⟩ := o'.growMark_eq ref' fun m => { m with extent := m.extent + 1 }
    refine ⟨ms, o.record.droppedMarks, o.record.flags.marksTruncated, ref, ?_, (nomatch ·), fun r hr => ?_⟩
    · unfold OpenItem.loseFrame
      dsimp only
      rw [hc]
      dsimp only
      rw [h]
      rfl
    · obtain rfl : ref' = r := Option.some.inj hr
      exact hm

/-- The concealed samples of a frame (R70): the count, the flag, and the CONCEAL mark opened or grown. -/
theorem OpenItem.concealFrame_eq (o : OpenItem) (n : Nat) (f : Frame) : ∃ ms d t current,
    (o.concealFrame n f = { o.withMarks ms d t with
      accounts := { o.accounts with conceal := current }
      record := { (o.withMarks ms d t).record with
        concealed := if (f.concA || f.concB) = true then min 4294967295 (o.record.concealed + 1) else o.record.concealed
        flags := { o.record.flags with concealed := o.record.flags.concealed || (f.concA || f.concB), marksTruncated := t } } }) ∧
    (f.concA = false → f.concB = false → o.record.MarksSame (o.withMarks ms d t).record ∧ current = o.accounts.conceal) ∧
    (f.concA = true ∨ f.concB = true →
      ((∀ c, o.accounts.conceal = some c → rateHz o.record.rate / 100 < n - c.last) → ∃ ref, current = some ⟨ref, n⟩ ∧
        o.record.MarkRaised (o.withMarks ms d t).record ⟨.conceal, n, o.record.prog n, 1, f.concA, f.concB, o.record.marks.length⟩ ref) ∧
      ∀ c, o.accounts.conceal = some c → n - c.last ≤ rateHz o.record.rate / 100 → ∃ ref, current = some ⟨ref, n⟩ ∧
        o.record.MarkGrown (o.withMarks ms d t).record c.mark ref
          fun m => { m with extent := n - m.offset + 1, chA := m.chA || f.concA, chB := m.chB || f.concB }) := by
  let o' : OpenItem := { o with record := { o.record with
    concealed := sat Config.count32 (o.record.concealed + 1), flags := { o.record.flags with concealed := true } } }
  let g : Mark → Mark := fun m => { m with extent := n - m.offset + 1, chA := m.chA || f.concA, chB := m.chB || f.concB }
  have counted := sat_eq Config.count32 (o.record.concealed + 1)
  simp only [Config.count32] at counted
  cases hk : f.concA || f.concB with
  | false =>
    have hn : ¬(f.concA = true ∨ f.concB = true) := by simpa using hk
    refine ⟨o.record.marks, o.record.droppedMarks, o.record.flags.marksTruncated, o.accounts.conceal, ?_, fun _ _ => ⟨⟨rfl, rfl, rfl⟩, rfl⟩,
      fun h => absurd h hn⟩
    simp [OpenItem.concealFrame, hk, OpenItem.withMarks]
  | true =>
    have hy : f.concA = false → f.concB = false → False := fun a b => by simp [a, b] at hk
    by_cases near : ∃ c, o.accounts.conceal = some c ∧ n - c.last ≤ rateHz o.record.rate / 100
    · obtain ⟨c, hc, k⟩ := near
      obtain ⟨ms, ref, h, hm⟩ := o'.growMark_eq c.mark g
      refine ⟨ms, o.record.droppedMarks, o.record.flags.marksTruncated, some ⟨ref, n⟩, ?_, fun a b => (hy a b).elim, fun _ => ⟨fun far => ?_, fun c' hc' _ => ?_⟩⟩
      · unfold OpenItem.concealFrame
        rw [if_pos hk]
        dsimp only
        rw [hc]
        dsimp only
        rw [if_pos (by simpa only [windowFrames] using k), h]
        simp [OpenItem.withMarks, o', sat_eq, Config.count32]
      · have := far c hc
        omega
      · obtain rfl : c = c' := Option.some.inj (hc.symm.trans hc')
        exact ⟨ref, rfl, hm⟩
    · have far : ∀ c, o.accounts.conceal = some c → ¬n - c.last ≤ rateHz o.record.rate / 100 := fun c hc k => near ⟨c, hc, k⟩
      obtain ⟨ms, d, t, ref, h, hm⟩ := o'.raiseMark_eq (o'.record.newMark .conceal n 1 f.concA f.concB)
      have e : o.concealFrame n f = { (o'.raiseMark (o'.record.newMark .conceal n 1 f.concA f.concB)).1 with
          accounts := { (o'.raiseMark (o'.record.newMark .conceal n 1 f.concA f.concB)).1.accounts with
            conceal := some ⟨(o'.raiseMark (o'.record.newMark .conceal n 1 f.concA f.concB)).2, n⟩ } } := by
        unfold OpenItem.concealFrame
        rw [if_pos hk]
        dsimp only
        split
        · rename_i c hc
          rw [if_neg (by simpa only [windowFrames] using far c hc)]
        · rfl
      refine ⟨ms, d, t, some ⟨ref, n⟩, ?_, fun a b => (hy a b).elim, fun _ => ⟨fun _ => ⟨ref, rfl, hm⟩, fun c hc k => absurd k (far c hc)⟩⟩
      rw [e, h]
      simp [OpenItem.withMarks, o', sat_eq, Config.count32]

theorem frameBytes_eq (channels : Channels) (f : Frame) :
    frameBytes channels f = sampleBytes f.a ++ if channels = .two then sampleBytes f.b else [] := by
  cases channels <;> simp [frameBytes]

/-- The item `o` once a frame has been counted in its length and has gone to its place, before it is accounted. -/
def OpenItem.moved (o : OpenItem) (buffer : Option Buffer) (gap : Nat) (crc : BitVec 32) (blocks : Nat) : OpenItem :=
  { o with buffer := buffer, gap := gap, record := { o.record with length := o.record.length + 1, crc := crc, blocks := blocks } }

/-- Steps 1 to 3 of R69. -/
def OpenItem.account (o : OpenItem) (n : Nat) (f : Frame) (placed : Bool) : OpenItem :=
  ((if placed then o.keepFrame else o.loseFrame n).concealFrame n f).peakFrame f

theorem OpenItem.account_eq (o : OpenItem) (b : Option Buffer) (g : Nat) (crc : BitVec 32) (k : Nat) (f : Frame) (placed : Bool) :
    ∃ ms d t acc, (o.moved b g crc k).account o.record.length f placed = { o with
        buffer := b
        gap := g
        accounts := acc
        record := { o.record with
          length := o.record.length + 1
          lost := if placed then o.record.lost else o.record.lost + 1
          crc := crc
          concealed := if f.concA || f.concB then min 4294967295 (o.record.concealed + 1) else o.record.concealed
          peakA := max o.record.peakA f.a.toInt.natAbs
          peakB := if o.record.channels = .two then max o.record.peakB f.b.toInt.natAbs else o.record.peakB
          blocks := k
          marks := ms
          droppedMarks := d
          flags := { o.record.flags with
            overrun := o.record.flags.overrun || !placed
            concealed := o.record.flags.concealed || (f.concA || f.concB)
            marksTruncated := t } } } ∧
      ∀ r', r'.marks = ms → r'.droppedMarks = d → r'.flags.marksTruncated = t → o.FrameMarks r' acc f placed := by
  have peaks : ∀ q : OpenItem, q.peakFrame f = { q with record := { q.record with
      peakA := max q.record.peakA f.a.toInt.natAbs
      peakB := if q.record.channels = .two then max q.record.peakB f.b.toInt.natAbs else q.record.peakB } } := by
    intro q
    unfold OpenItem.peakFrame
    cases q.record.channels <;> rfl
  cases placed with
  | true =>
    obtain ⟨ms, d, t, current, e, same, new⟩ := (o.moved b g crc k).keepFrame.concealFrame_eq o.record.length f
    refine ⟨ms, d, t, ⟨current, o.accounts.overload, o.accounts.silence, none⟩, ?_, fun r' h1 h2 h3 => ?_⟩
    · rw [show (o.record.flags.overrun || !true) = o.record.flags.overrun by simp]
      exact (peaks _).trans (by rw [if_pos rfl, e]; rfl)
    · subst h1 h2 h3
      exact ⟨o.record, fun _ => ⟨⟨rfl, rfl, rfl⟩, rfl⟩, (nomatch ·), (nomatch ·), same, new, rfl, rfl⟩
  | false =>
    obtain ⟨ms₁, d₁, t₁, ref, e₁, raised, grown⟩ := (o.moved b g crc k).loseFrame_eq o.record.length
    obtain ⟨ms, d, t, current, e, same, new⟩ := ((o.moved b g crc k).loseFrame o.record.length).concealFrame_eq o.record.length f
    rw [e₁] at e same new
    refine ⟨ms, d, t, ⟨current, o.accounts.overload, o.accounts.silence, some ref⟩, ?_, fun r' h1 h2 h3 => ?_⟩
    · rw [show (o.record.flags.overrun || !false) = true by simp]
      exact (peaks _).trans (by rw [if_neg (by simp), e₁, e]; rfl)
    · subst h1 h2 h3
      exact ⟨((o.moved b g crc k).withMarks ms₁ d₁ t₁).record, (nomatch ·), fun _ h => ⟨ref, rfl, raised h⟩,
        fun _ ref' h => ⟨ref, rfl, grown ref' h⟩, same, new, rfl, rfl⟩

/-- The buffer `b` of an item with the frame in it (R115, R118). -/
def OpenItem.filled (o : OpenItem) (b : Buffer) (f : Frame) : Buffer :=
  ⟨b.frames + 1, if b.frames = 0 then o.gap else b.gap,
    b.payload ++ (sampleBytes f.a ++ if o.record.channels = .two then sampleBytes f.b else [])⟩

/-- The block of a buffer that a frame has filled (R115, R121). -/
def OpenItem.full (o : OpenItem) (l : LaneId) (b : Buffer) : Block :=
  ⟨o.queued.item, l, o.record.blocks, o.record.blocks == 0, false, b.frames, o.record.channels, o.record.rate, b.gap, b.payload, none, none⟩

theorem State.appendFull_eq (s : State) (l : LaneId) (b : Buffer) (f : Frame) {o : OpenItem} (ho : (s.lane l).item = some o) :
    (s.mapItem l fun o => o.append b f).finishFull l =
      let full := decide (o.blockSize ≤ b.frames + 1)
      ({ s with memory := { s.memory with queue := s.memory.queue ++ if full then [o.full l (o.filled b f)] else [] } } : State).setLane l
        { s.lane l with item := some { o with
          buffer := if full then none else some (o.filled b f)
          gap := if b.frames = 0 then 0 else o.gap
          record := { o.record with
            crc := crc32 o.record.crc (sampleBytes f.a ++ if o.record.channels = .two then sampleBytes f.b else [])
            blocks := if full then o.record.blocks + 1 else o.record.blocks } } } := by
  rw [State.mapItem_eq s l _ ho]
  unfold State.finishFull
  simp only [State.lane_setLane, OpenItem.append]
  rw [show frameBytes o.record.channels f = _ from frameBytes_eq _ _]
  by_cases h : o.blockSize ≤ b.frames + 1
  · rw [if_pos h]
    simp only [decide_eq_true h, if_true]
    exact State.mapItem_setLane (s.enqueue _) l _ _
  · rw [if_neg h]
    simp only [decide_eq_false h, Bool.false_eq_true, if_false, List.append_nil]
    rfl

/-- The place of a frame (R115, R116, R118): the buffer, the gap, the digest and the blocks of the item `o`, and the block memory after it. -/
theorem State.placeFrame_eq (s : State) (l : LaneId) (f : Frame) {o : OpenItem} (ho : (s.lane l).item = some o) :
    let placed := o.buffer.isSome || (!s.memory.waiting.contains l && s.canGrant l)
    let b : Buffer := o.buffer.getD ⟨0, 0, []⟩
    let full := decide (o.blockSize ≤ b.frames + 1)
    s.placeFrame l f = if placed then
        (({ s with memory := { s.memory with queue := s.memory.queue ++ if full then [o.full l (o.filled b f)] else [] } } : State).setLane l
          { s.lane l with item := some { o with
            buffer := if full then none else some (o.filled b f)
            gap := if b.frames = 0 then 0 else o.gap
            record := { o.record with
              crc := crc32 o.record.crc (sampleBytes f.a ++ if o.record.channels = .two then sampleBytes f.b else [])
              blocks := if full then o.record.blocks + 1 else o.record.blocks } } }, true)
      else (({ s with memory := { s.memory with waiting := if s.memory.waiting.contains l then s.memory.waiting else s.memory.waiting ++ [l] } } : State).setLane l
          { s.lane l with item := some { o with gap := o.gap + 1 } }, false) := by
  intro placed b full
  unfold State.placeFrame
  cases hb : o.buffer with
  | some b' =>
    have hp : placed = true := by simp [placed, hb]
    have hB : (s.lane l).hasBuffer = true := by simp [Lane.hasBuffer, ho, hb]
    simp only [hB, if_true, ho, hb, hp]
    exact Prod.ext (by rw [State.appendFull_eq s l b' f ho]; simp [full, b, hb]) rfl
  | none =>
    have hB : (s.lane l).hasBuffer = false := by simp [Lane.hasBuffer, ho, hb]
    simp only [hB, Bool.false_eq_true, if_false]
    unfold State.requestBuffer
    by_cases hw : s.memory.waiting.contains l = true
    · have hp : placed = false := by simp [placed, hb]; intro h; exact absurd hw (by simpa using h)
      simp only [hw, if_true, hp, Bool.false_eq_true, if_false, ho, hb]
      refine Prod.ext ?_ rfl
      dsimp only
      rw [State.mapItem_eq s l _ ho, hb]
    · by_cases hg : s.canGrant l = true
      · have hp : placed = true := by simp [placed, hb, hg]; simpa using hw
        have hi : (s.giveBuffer l).lane l = { s.lane l with item := some { o with buffer := some ⟨0, 0, []⟩ } } := by
          simp [State.giveBuffer, ho]
        simp only [hw, hg, if_true, hp, Bool.false_eq_true, if_false, hi]
        refine Prod.ext ?_ rfl
        dsimp only
        rw [State.appendFull_eq (s.giveBuffer l) l ⟨0, 0, []⟩ f (by rw [hi]), hi]
        rw [show s.giveBuffer l = _ from State.mapItem_eq s l _ ho, show b = ⟨0, 0, []⟩ by simp [b, hb],
          show full = decide (o.blockSize ≤ 1) by simp [full, b, hb]]
        dsimp only
        exact State.setLane_setLane ({ s with memory := { s.memory with
          queue := s.memory.queue ++ if decide (o.blockSize ≤ 1) then [o.full l (o.filled ⟨0, 0, []⟩ f)] else [] } } : State) l _ _
      · have hp : placed = false := by simp [placed, hb, hg]
        simp only [hw, hg, hp, Bool.false_eq_true, if_false, State.lane_startWaiting, ho, hb]
        refine Prod.ext ?_ rfl
        dsimp only
        rw [State.mapItem_eq (s.startWaiting l) l _ ho, hb]
        rfl

/-- One frame of the open item (R33, R34, R69). -/
theorem State.passFrame_takes (s : State) (l : LaneId) (f : Frame) {o : OpenItem} (ho : (s.lane l).item = some o) :
    ∃ p, s.ItemTakes (s.passFrame l f) l f o p := by
  let o₁ : OpenItem := { o with record := { o.record with length := o.record.length + 1 } }
  let s₁ : State := s.setLane l { s.lane l with item := some o₁ }
  have h₁ : (s₁.lane l).item = some o₁ := by simp [s₁]
  have hl : s₁.lane l = { s.lane l with item := some o₁ } := by simp [s₁]
  have hg : s₁.canGrant l = s.canGrant l :=
    s.canGrant_setLane l { s.lane l with item := some o₁ } (by simp [Lane.hasBuffer, ho, o₁]) rfl l
  have placed := s₁.placeFrame_eq l f h₁
  have e : s.passFrame l f = (if !(s₁.placeFrame l f).2 && o.accounts.overrun.isNone then (s₁.placeFrame l f).1.raise (.lane l .overrun)
      else (s₁.placeFrame l f).1).mapItem l fun q => q.account o.record.length f (s₁.placeFrame l f).2 := by
    unfold State.passFrame
    rw [ho]
    dsimp only
    rw [State.mapItem_eq s l _ ho]
    rfl
  dsimp only at placed
  rw [show s₁.memory = s.memory from rfl, hg, hl] at placed
  let b : Buffer := o.buffer.getD ⟨0, 0, []⟩
  let full := decide (o.blockSize ≤ b.frames + 1)
  cases hp : (o.buffer.isSome || (!s.memory.waiting.contains l && s.canGrant l)) with
  | true =>
    let m : State := { s with memory := { s.memory with queue := s.memory.queue ++ if full then [o.full l (o.filled b f)] else [] } }
    obtain ⟨ms, d, t, acc, ha, hf⟩ := o.account_eq (if full then none else some (o.filled b f)) (if b.frames = 0 then 0 else o.gap)
      (crc32 o.record.crc (sampleBytes f.a ++ if o.record.channels = .two then sampleBytes f.b else []))
      (if full then o.record.blocks + 1 else o.record.blocks) f true
    generalize hq : OpenItem.account _ _ _ _ = q at ha
    have place : s₁.placeFrame l f = (m.setLane l { s.lane l with item := some (o.moved (if full then none else some (o.filled b f))
        (if b.frames = 0 then 0 else o.gap) (crc32 o.record.crc (sampleBytes f.a ++ if o.record.channels = .two then sampleBytes f.b else []))
        (if full then o.record.blocks + 1 else o.record.blocks)) }, true) := by
      rw [placed, if_pos hp]
      exact Prod.ext (State.setLane_setLane m l _ _) rfl
    have e' : s.passFrame l f = m.setLane l { s.lane l with item := some q } := by
      rw [e, place, ← hq]
      exact State.mapItem_setLane m l _ _
    refine ⟨q, ?_⟩
    rw [e']
    unfold State.ItemTakes
    rw [hp]
    subst ha
    refine ⟨rfl, rfl, rfl, fun _ => ⟨rfl, rfl, fun h => ?_, fun h => ?_⟩, (nomatch ·), rfl, hf _ rfl rfl rfl⟩
    · have : full = false := decide_eq_false (by simpa [OpenItem.filled] using h)
      simp [this, m, OpenItem.filled, b]
    · have : full = true := decide_eq_true h
      simp [this, m, OpenItem.filled, OpenItem.full, b]
  | false =>
    let m : State := { s with memory := { s.memory with
      waiting := if s.memory.waiting.contains l then s.memory.waiting else s.memory.waiting ++ [l] } }
    have hb : o.buffer = none := by cases h : o.buffer with
      | none => rfl
      | some _ => simp [h] at hp
    obtain ⟨ms, d, t, acc, ha, hf⟩ := o.account_eq none (o.gap + 1) o.record.crc o.record.blocks f false
    generalize hq : OpenItem.account _ _ _ _ = q at ha
    have place : s₁.placeFrame l f = (m.setLane l { s.lane l with item := some (o.moved none (o.gap + 1) o.record.crc o.record.blocks) }, false) := by
      rw [placed, if_neg (by rw [show o₁.buffer = o.buffer from rfl, hp]; simp)]
      refine Prod.ext ((State.setLane_setLane m l _ _).trans ?_) rfl
      rw [← hb]
      rfl
    have e' : s.passFrame l f = (if o.accounts.overrun = none then m.raise (.lane l .overrun) else m).setLane l { s.lane l with item := some q } := by
      rw [e, place, ← hq]
      cases o.accounts.overrun with
      | none => exact State.mapItem_setLane (m.raise (.lane l .overrun)) l _ _
      | some _ => exact State.mapItem_setLane m l _ _
    refine ⟨q, ?_⟩
    rw [e']
    unfold State.ItemTakes
    rw [hp]
    subst ha
    refine ⟨?_, rfl, rfl, (nomatch ·), fun _ => ⟨rfl, rfl, rfl, ?_, ?_⟩, ?_, hf _ rfl rfl rfl⟩ <;> cases o.accounts.overrun <;> rfl

/-! ### The relock -/

/-- The relock of an item in DROPOUT (R42, R74): the timer stops, DISCONTINUOUS is set, and a DROPOUT mark is raised at the offset of the loss. -/
theorem OpenItem.relock_eq (o : OpenItem) (offset milliseconds : Nat) : ∃ (r : Recording) (ref : MarkRef),
    o.relock offset milliseconds = { o with dropout := none, record := { o.record with
      marks := r.marks
      droppedMarks := r.droppedMarks
      flags := { o.record.flags with discontinuous := true, marksTruncated := r.flags.marksTruncated } } } ∧
    o.record.MarkRaised r ⟨.dropout, offset, o.record.prog offset, milliseconds, false, false, o.record.marks.length⟩ ref := by
  obtain ⟨ms, d, t, ref, h, hm⟩ := o.raiseMark_eq (o.record.newMark .dropout offset milliseconds false false)
  refine ⟨(o.withMarks ms d t).record, ref, ?_, hm⟩
  unfold OpenItem.relock
  rw [h]
  rfl

end Sys2Proof.Machine
end

