-- ==== Sys2Proof/Laws/Closing.lean ====
section
/-! SUPPORT. What raising a flag, the close of an item and the opening of a head do, each said once in the terms of Safety. -/

namespace Sys2Proof.Machine

/-! ### Flags -/

theorem EventUnit.isSet_mark (ev : EventUnit) (f g : Flag) : (ev.mark f).isSet g = (ev.isSet g || g == f) := by
  cases f with
  | lane l e =>
    cases g with
    | lane k d =>
      by_cases hk : k = l
      · subst hk
        have : (d.index = e.index) = (d = e) := by cases d <;> cases e <;> decide
        have hd : d.index < 5 := by cases d <;> decide
        by_cases h : d = e
        · subst h
          simp [EventUnit.mark, EventUnit.isSet, hd]
        · have h' : (Flag.lane k d == Flag.lane k e) = false := by simpa using h
          simp [EventUnit.mark, EventUnit.isSet, hd, h']
          exact fun k => absurd (this ▸ k) h
      · have h' : (Flag.lane k d == Flag.lane l e) = false := by simp [hk]
        have : l.val ≠ k.val := fun e => hk (Fin.ext e.symm)
        simp [EventUnit.mark, EventUnit.isSet, Vector.getElem_set_ne, this, h']
    | device d => simp [EventUnit.mark, EventUnit.isSet]
    | routeDone r => simp [EventUnit.mark, EventUnit.isSet]
  | device e =>
    cases g with
    | lane k d => simp [EventUnit.mark, EventUnit.isSet]
    | device d =>
      have hd : d.index < 3 := by cases d <;> decide
      cases d <;> cases e <;> simp [EventUnit.mark, EventUnit.isSet, DeviceEvent.index]
    | routeDone r => simp [EventUnit.mark, EventUnit.isSet]
  | routeDone r =>
    cases g with
    | lane k d => simp [EventUnit.mark, EventUnit.isSet]
    | device d => simp [EventUnit.mark, EventUnit.isSet]
    | routeDone q =>
      by_cases h : q = r
      · subst h; simp [EventUnit.mark, EventUnit.isSet]
      · have h' : (Flag.routeDone q == Flag.routeDone r) = false := by simpa using h
        have : r.val ≠ q.val := fun e => h (Fin.ext e.symm)
        simp [EventUnit.mark, EventUnit.isSet, h']
        exact fun k => absurd k.symm this

/-- Raising a flag sets it and no other (R165). -/
theorem EventUnit.isSet_raise (ev : EventUnit) (up : Bool) (f : Flag) (item : Item) (g : Flag) :
    (ev.raise up f item).isSet g = (ev.isSet g || g == f) := by
  unfold EventUnit.raise
  split
  · rename_i h
    by_cases e : g = f
    · subst e; simp [h]
    · simp [e]
  · split
    · exact (show _ = (ev.mark f).isSet g by cases g <;> rfl).trans (ev.isSet_mark f g)
    · exact ev.isSet_mark f g

theorem State.isSet_raise (s : State) (f : Flag) (item : Item) (g : Flag) :
    (s.raise f item).events.isSet g = (s.events.isSet g || g == f) := EventUnit.isSet_raise ..

theorem EventUnit.raise_mask (ev : EventUnit) (up : Bool) (f : Flag) (item : Item) : (ev.raise up f item).mask = ev.mask := by
  unfold EventUnit.raise EventUnit.mark
  cases f <;> (split <;> [rfl; split <;> rfl])

theorem EventUnit.raise_cause (ev : EventUnit) (up : Bool) (f : Flag) (item : Item) : (ev.raise up f item).cause = ev.cause := by
  unfold EventUnit.raise EventUnit.mark
  cases f <;> (split <;> [rfl; split <;> rfl])

/-! ### Grants -/

theorem Lane.without_item {x : Lane} (h : x.item = none) : { x with item := none } = x := by
  cases x; cases h; rfl


/-- The lane `k` after grants: as it was, or granted the buffer that it waited for. -/
def State.Granted (s : State) (k : LaneId) (y : Lane) : Prop :=
  y = s.lane k ∨ ∃ o, (s.lane k).item = some o ∧ k ∈ s.memory.waiting ∧ y = { s.lane k with item := some { o with buffer := some ⟨0, 0, []⟩ } }

/-- All that the grants that follow a freed buffer can do (R117). -/
theorem State.grantLoop_eq (n : Nat) (s : State) : ∃ lanes waiting,
    State.grantLoop n s = { s with lanes := lanes, memory := { s.memory with waiting := waiting } } ∧
      ∀ k, s.Granted k ((State.grantLoop n s).lane k) := by
  induction n generalizing s with
  | zero => exact ⟨s.lanes, s.memory.waiting, rfl, fun k => .inl rfl⟩
  | succ n ih =>
    unfold State.grantLoop
    split
    · rename_i l hl
      obtain ⟨lanes, waiting, e, h⟩ := ih ((s.stopWaiting l).giveBuffer l)
      refine ⟨lanes, waiting, e, fun k => ?_⟩
      have hw : l ∈ s.memory.waiting := List.mem_of_find?_eq_some hl
      by_cases hk : k = l
      · subst hk
        have : (State.grantLoop n ((s.stopWaiting k).giveBuffer k)).lane k = ((s.stopWaiting k).giveBuffer k).lane k := by
          rcases h k with h | ⟨o, _, hm, _⟩
          · exact h
          · simp [State.stopWaiting] at hm
        rw [this]
        cases hi : (s.lane k).item with
        | none =>
          left
          simp only [State.giveBuffer, State.lane_mapItem, State.lane_stopWaiting, hi, Option.map_none]
          exact Lane.without_item hi
        | some o => exact .inr ⟨o, hi, hw, by simp [State.giveBuffer, hi]⟩
      · have same : ((s.stopWaiting l).giveBuffer l).lane k = s.lane k := by
          simp [State.giveBuffer, State.lane_mapItem_ne _ _ hk]
        rcases h k with h | ⟨o, ho, hm, h⟩
        · exact .inl (h.trans same)
        · rw [same] at ho h
          exact .inr ⟨o, ho, by simpa [State.stopWaiting] using List.mem_of_mem_filter hm, h⟩
    · exact ⟨s.lanes, s.memory.waiting, rfl, fun k => .inl rfl⟩

/-- What those grants make of the waiting-lane list (R117): it only shrinks, a lane that leaves it has been granted a buffer, and with fuel for
every lane on it none that stays could be granted one. -/
theorem State.grantLoop_waiting (n : Nat) (s : State) :
    (State.grantLoop n s).memory.waiting.Sublist s.memory.waiting ∧
    (∀ k q, k ∈ s.memory.waiting → k ∉ (State.grantLoop n s).memory.waiting → (s.lane k).item = some q →
      (State.grantLoop n s).lane k = { s.lane k with item := some { q with buffer := some ⟨0, 0, []⟩ } }) ∧
    (s.memory.waiting.length ≤ n → ∀ k ∈ (State.grantLoop n s).memory.waiting, (State.grantLoop n s).canGrant k = false) := by
  induction n generalizing s with
  | zero =>
    refine ⟨List.Sublist.refl _, fun k q h h' => absurd h h', fun h k hk => ?_⟩
    rw [show (State.grantLoop 0 s).memory.waiting = s.memory.waiting from rfl, List.length_eq_zero_iff.1 (Nat.le_zero.1 h)] at hk
    cases hk
  | succ n ih =>
    unfold State.grantLoop
    split
    · rename_i l hl
      have hw : l ∈ s.memory.waiting := List.mem_of_find?_eq_some hl
      obtain ⟨sub, left, stay⟩ := ih ((s.stopWaiting l).giveBuffer l)
      have memory : ((s.stopWaiting l).giveBuffer l).memory.waiting = s.memory.waiting.filter fun k => k != l := rfl
      rw [memory] at sub left stay
      refine ⟨sub.trans List.filter_sublist, fun k q hk hk' hq => ?_, fun h => stay ?_⟩
      · by_cases e : k = l
        · subst e
          have given : ((s.stopWaiting k).giveBuffer k).lane k = { s.lane k with item := some { q with buffer := some ⟨0, 0, []⟩ } } := by
            simp [State.giveBuffer, hq]
          obtain ⟨_, _, _, same⟩ := State.grantLoop_eq n ((s.stopWaiting k).giveBuffer k)
          rcases same k with h | ⟨_, _, hm, _⟩
          · exact h.trans given
          · rw [memory] at hm
            simp at hm
        · have same : ((s.stopWaiting l).giveBuffer l).lane k = s.lane k := by simp [State.giveBuffer, State.lane_mapItem_ne _ _ e]
          have := left k q (List.mem_filter.2 ⟨hk, by simpa using e⟩) hk' (by rw [same]; exact hq)
          rw [this, same]
      · have : (s.memory.waiting.filter fun k => k != l).length < s.memory.waiting.length :=
          List.length_filter_lt_length_iff_exists.2 ⟨l, hw, by simp⟩
        omega
    · rename_i hn
      exact ⟨List.Sublist.refl _, fun k q h h' => absurd h h', fun _ k hk => by simpa using List.find?_eq_none.1 hn k hk⟩

/-! ### The close of an item -/

/-- The trailer's flags byte, bit by bit (R178). -/
theorem ItemFlags.code_eq (f : ItemFlags) : BitVec.ofNat 8 f.code = 0b000#3 ++ BitVec.ofBool f.abandoned ++ BitVec.ofBool f.marksTruncated ++
    BitVec.ofBool f.overrun ++ BitVec.ofBool f.concealed ++ BitVec.ofBool f.discontinuous := by
  obtain ⟨a, b, c, d, e⟩ := f
  cases a <;> cases b <;> cases c <;> cases d <;> cases e <;> decide

/-- The LAST entry of an item (R119): one block at the tail of the send queue, and the buffer or the waiting place given up. -/
theorem State.lastEntry_eq (s : State) (l : LaneId) (o o' : OpenItem) (reason : CloseReason) (ho : (s.lane l).item = some o) :
    let held : Buffer := o'.buffer.getD ⟨0, 0, []⟩
    let b : Block := ⟨o'.queued.item, l, o'.record.blocks, o'.record.blocks == 0, true, held.frames, o'.record.channels, o'.record.rate,
      if held.frames = 0 then o'.gap else held.gap, if held.frames = 0 then [] else held.payload, some (o'.trailer reason),
      if held.frames = 0 then some o'.queued.record else none⟩
    ∃ lanes waiting item, s.lastEntry l o' reason = { s with lanes := lanes, memory := ⟨waiting, s.memory.queue ++ [b]⟩ } ∧
      (s.lastEntry l o' reason).lane l = { s.lane l with item := item } ∧
      (∀ k, k ≠ l → s.Granted k ((s.lastEntry l o' reason).lane k)) ∧ s.WaitingAfterClose (s.lastEntry l o' reason) l o' ∧
      (l ∉ s.memory.waiting → ((s.lastEntry l o' reason).lane l).hasBuffer = false) := by
  intro held b
  let t : State := (s.enqueue b).setLane l { s.lane l with item := some o.emitted }
  have emit : (s.enqueue b).mapItem l OpenItem.emitted = t := State.mapItem_eq (s.enqueue b) l _ ho
  have hl : t.lane l = { s.lane l with item := some o.emitted } := by simp [t]
  have bare : (t.lane l).hasBuffer = false := by rw [hl]; rfl
  have others : ∀ k, k ≠ l → t.lane k = s.lane k := fun k hk => by simp [t, State.lane_setLane_ne _ _ hk]
  have waits : t.memory.waiting = s.memory.waiting := rfl
  cases hb : o'.buffer with
  | none =>
    have e : s.lastEntry l o' reason = t.stopWaiting l := by
      unfold State.lastEntry
      rw [hb]
      dsimp only
      rw [show o'.block l ⟨0, o'.gap, []⟩ (some (o'.trailer reason)) (some o'.queued.record) = b by simp [OpenItem.block, b, held, hb], emit]
    rw [e]
    exact ⟨t.lanes, _, some o.emitted, rfl, hl, fun k hk => .inl (others k hk), ⟨fun _ => rfl, fun c h => by simp [hb] at h⟩, fun _ => bare⟩
  | some b' =>
    have hheld : held = b' := by simp [held, hb]
    by_cases h0 : b'.frames = 0
    · have e : s.lastEntry l o' reason = t.grant := by
        unfold State.lastEntry
        rw [hb]
        dsimp only
        rw [if_pos h0, show o'.block l ⟨0, o'.gap, []⟩ (some (o'.trailer reason)) (some o'.queued.record) = b by
          simp [OpenItem.block, b, hheld, h0], emit]
      obtain ⟨lanes, waiting, eg, hg⟩ := State.grantLoop_eq t.memory.waiting.length t
      obtain ⟨item, hi⟩ : ∃ item, t.grant.lane l = { s.lane l with item := item } := by
        rcases hg l with h | ⟨q, _, _, h⟩
        · exact ⟨_, h.trans hl⟩
        · exact ⟨_, h.trans (by rw [hl])⟩
      obtain ⟨sub, left, stay⟩ := State.grantLoop_waiting t.memory.waiting.length t
      rw [e]
      refine ⟨lanes, waiting, item, eg, hi, fun k hk => ?_, ⟨fun h => by simp [hb] at h, fun c h => ?_⟩, fun h => ?_⟩
      · rcases hg k with h | ⟨q, hq, hm, h⟩
        · exact .inl (h.trans (others k hk))
        · rw [others k hk] at hq h
          exact .inr ⟨q, hq, hm, h⟩
      · obtain rfl : b' = c := Option.some.inj (hb.symm.trans h)
        refine ⟨fun h => absurd h0 h, fun _ => ⟨sub, fun k q hk hw hw' hq => ?_, fun _ => stay (Nat.le_refl _)⟩⟩
        rw [← others k hk] at hq ⊢
        exact left k q hw hw' hq
      · rcases hg l with h' | ⟨_, _, hm, _⟩
        · exact (congrArg Lane.hasBuffer h').trans bare
        · exact absurd (waits ▸ hm) h
    · have e : s.lastEntry l o' reason = t := by
        unfold State.lastEntry
        rw [hb]
        dsimp only
        rw [if_neg h0, show o'.block l b' (some (o'.trailer reason)) none = b by simp [OpenItem.block, b, hheld, h0], emit]
      rw [e]
      refine ⟨t.lanes, _, some o.emitted, rfl, hl, fun k hk => .inl (others k hk), ⟨fun h => by simp [hb] at h, fun c h => ?_⟩, fun _ => bare⟩
      obtain rfl : b' = c := Option.some.inj (hb.symm.trans h)
      exact ⟨fun _ => rfl, fun h => absurd h h0⟩

/-- All that a close does (R39). -/
theorem State.closeItem_itemCloses (s : State) (l : LaneId) (reason : CloseReason) {o : OpenItem} (ho : (s.lane l).item = some o) :
    s.ItemCloses (s.closeItem l reason) l o reason := by
  obtain ⟨lanes, waiting, item, e, hl, others, hw, bare⟩ := s.lastEntry_eq l o (o.closing reason) reason ho
  let t := s.lastEntry l (o.closing reason) reason
  let u := ((t.mapLane l fun x => x.vacate (o.closing reason).lastFrame).file ((o.closing reason).filed l reason)).raise (.lane l .itemClosed)
    o.queued.item
  have ec : s.closeItem l reason = u.armNext l reason := by
    unfold State.closeItem
    rw [ho]
    rfl
  have hu : u.lane l = (s.lane l).vacate (o.closing reason).lastFrame := by
    simp only [u, State.lane_raise, State.lane_file, State.lane_mapLane]
    rw [show t.lane l = _ from hl]
    rfl
  have eu : ∃ L, u = { s with
      lanes := L
      table := { s.table with closed := s.table.closed ++ [(o.closing reason).filed l reason] }
      memory := t.memory
      events := (s.raise (.lane l .itemClosed) o.queued.item).events } := by
    refine ⟨u.lanes, ?_⟩
    simp only [u, show t = _ from e]
    rfl
  have ev : ∃ L, u.armNext l reason = { s with
      lanes := L
      table := { s.table with closed := s.table.closed ++ [(o.closing reason).filed l reason] }
      memory := t.memory
      events := (s.raise (.lane l .itemClosed) o.queued.item).events } := by
    obtain ⟨L, eu⟩ := eu
    unfold State.armNext
    split
    · exact ⟨L, eu⟩
    · exact ⟨_, by rw [eu]; rfl⟩
  have hv : (u.armNext l reason).lane l = { (s.lane l).vacate (o.closing reason).lastFrame with
      baseline := if reason = .laneReset ∨ (s.lane l).queue = [] then (s.lane l).baseline
        else some ⟨(s.lane l).cue.level, (s.lane l).detector.state, (s.lane l).port.motion⟩ } := by
    unfold State.armNext
    rw [hu]
    by_cases h : reason = .laneReset ∨ (s.lane l).queue = []
    · rw [if_pos h, if_pos (by rcases h with h | h <;> simp [h]), hu]
      rfl
    · rw [if_neg h, if_neg (by simpa [not_or, and_comm] using h), State.lane_mapLane, hu]
      rfl
  have same : ∀ k, k ≠ l → (u.armNext l reason).lane k = t.lane k := by
    intro k hk
    unfold State.armNext
    split <;> simp [u, State.lane_mapLane_ne _ _ hk]
  have hk : ∀ k, k ≠ l → s.Granted k ((u.armNext l reason).lane k) := fun k hk => by rw [same k hk]; exact others k hk
  have wait : s.WaitingAfterClose (u.armNext l reason) l o := by
    obtain ⟨L, ev⟩ := ev
    have memory : (u.armNext l reason).memory = t.memory := by rw [ev]
    refine ⟨fun h => by rw [memory]; exact hw.1 h, fun b h => ⟨fun h' => by rw [memory]; exact (hw.2 b h).1 h', fun h' => ?_⟩⟩
    obtain ⟨sub, left, stay⟩ := (hw.2 b h).2 h'
    refine ⟨by rw [memory]; exact sub, fun k q hk => ?_, fun hl' k hk' => ?_⟩
    · rw [memory, same k hk]; exact left k q hk
    · rw [memory] at hk'
      refine (State.canGrant_congr (s := t) (fun j => ?_) (congrArg BlockMemory.queue memory) ?_ ?_).trans (stay hl' k hk')
      · by_cases hj : j = l
        · subst hj
          rw [show (t.lane j).hasBuffer = false from bare hl', hv]
          rfl
        · rw [same j hj]
      · rw [ev, show t = _ from e]
      · by_cases hj : k = l
        · subst hj
          rw [hv, show t.lane k = _ from hl]
          rfl
        · rw [same k hj]
  rw [ec]
  generalize u.armNext l reason = v at ev hv hk wait
  obtain ⟨L, ev⟩ := ev
  subst ev
  have hm : t.memory = ⟨waiting, _⟩ := congrArg State.memory e
  rw [hm] at hk hv wait ⊢
  refine ⟨hv, rfl, rfl, ⟨_, rfl, rfl, rfl, rfl, rfl, rfl, rfl, rfl, rfl, rfl, rfl, rfl, _, rfl, rfl, rfl, rfl, rfl, rfl, rfl, ?_, rfl⟩, wait, rfl,
    ⟨rfl, rfl, rfl, rfl, rfl, rfl, rfl, ⟨_, rfl⟩, ⟨_, rfl, ?_⟩, ?_, ?_, ?_, hk⟩, rfl, rfl, rfl⟩
  · exact (ItemFlags.code_eq _)
  · intro b hb
    obtain rfl := List.mem_singleton.1 hb
    rfl
  · exact EventUnit.raise_mask ..
  · exact EventUnit.raise_cause ..
  · intro f hf
    exact (State.isSet_raise ..).trans (by simp [hf .itemClosed])

/-! ### The opening of a head -/

/-- The lane that a frame has been taken by holds the item after it, and is the same otherwise. -/
theorem State.ItemTakes.lane {s t : State} {l : LaneId} {f : Frame} {o p : OpenItem} (h : s.ItemTakes t l f o p) :
    t.lane l = { s.lane l with item := some p } := by
  rw [h.1]; simp

theorem State.passFrames_push (l : LaneId) (fs : List Frame) (s : State) {o : OpenItem} (ho : (s.lane l).item = some o) :
    ∃ p, State.ItemPushes l fs s o (fs.foldl (fun s f => s.passFrame l f) s) p := by
  induction fs generalizing s o with
  | nil => exact ⟨o, rfl, rfl⟩
  | cons f fs ih =>
    obtain ⟨m, hm⟩ := s.passFrame_takes l f ho
    obtain ⟨p, hp⟩ := ih (s.passFrame l f) (o := m) (by rw [hm.lane])
    exact ⟨p, _, m, hm, hp⟩

/-- What a run of frames leaves as it was, and the length after it. -/
theorem State.ItemPushes.keeps {l : LaneId} {fs : List Frame} {s t : State} {o p : OpenItem} (h : State.ItemPushes l fs s o t p)
    (ho : (s.lane l).item = some o) :
    t.table = s.table ∧ t.lane l = { s.lane l with item := some p } ∧ p.queued = o.queued ∧ p.pendingSpeed = o.pendingSpeed ∧
      p.dropout = o.dropout ∧ p.live = o.live ∧ p.record.deck = o.record.deck ∧ p.record.rate = o.record.rate ∧
      p.record.channels = o.record.channels ∧ p.record.start = o.record.start ∧ p.record.segments = o.record.segments ∧
      p.record.length = o.record.length + fs.length := by
  induction fs generalizing s o with
  | nil =>
    obtain ⟨rfl, rfl⟩ := h
    refine ⟨rfl, ?_, rfl, rfl, rfl, rfl, rfl, rfl, rfl, rfl, rfl, rfl⟩
    rw [← ho]
  | cons f fs ih =>
    obtain ⟨u, m, hm, hp⟩ := h
    have hl := hm.lane
    obtain ⟨h1, h2, h3, h4, h5, h6, h7, h8, h9, h10, h11, h12⟩ := ih hp (by rw [hl])
    obtain ⟨e1, e2, e3, _⟩ := hm
    refine ⟨h1.trans (by rw [e1]; rfl), h2.trans (by rw [hl]), h3.trans (by rw [e2]), h4.trans (by rw [e2]), h5.trans (by rw [e2]),
      h6.trans (by rw [e2]), h7.trans (by rw [e3]), h8.trans (by rw [e3]), h9.trans (by rw [e3]), h10.trans (by rw [e3]),
      h11.trans (by rw [e3]), h12.trans ?_⟩
    rw [e3, List.length_cons]
    dsimp only
    omega

/-- The LENGTH test at the opening instant (R35). -/
def State.closeIfReached (s : State) (l : LaneId) : State :=
  match (s.lane l).item with
  | some o => if o.reachedTarget then s.closeItem l .length else s
  | none => s

theorem State.closeIfReached_eq (s : State) (l : LaneId) {o : OpenItem} (ho : (s.lane l).item = some o) :
    s.closeIfReached l = if o.reachedTarget then s.closeItem l .length else s := by
  unfold State.closeIfReached
  rw [ho]

/-- The steps of an opening (R32, R33, R35). -/
theorem State.openHead_cons (s : State) (l : LaneId) (first : FrameCount) (cs : List Frame) (use : InUse) {q : Queued} {rest : List Queued}
    (hq : (s.lane l).queue = q :: rest) :
    s.openHead l first cs use = ((((prerollOf q cs).foldl (fun s f => s.passFrame l f) ((s.setLane l { s.lane l with
      queue := rest
      item := some (OpenItem.begin q use (s.lane l).profile (first - BitVec.ofNat 48 (prerollOf q cs).length)) }).requestBuffer l)).mapItem l
        fun o => { o with record := o.record.reckon }).raise (.lane l .itemOpened) q.item).closeIfReached l := by
  unfold State.openHead State.closeIfReached
  dsimp only
  rw [hq] <;> rfl

/-- All that the opening of a head on an empty open slot does (R30 to R35), its pre-roll being the last of the candidates that it asks for. -/
theorem State.openHead_starts (s : State) (l : LaneId) (cs : List Frame) {q : Queued} {rest : List Queued} (hq : (s.lane l).queue = q :: rest)
    (hi : (s.lane l).item = none) :
    s.HeadStarts (s.openHead l (s.lane l).port.counter cs (s.lane l).inUse) l q (cs.drop (cs.length - q.preroll)) := by
  let x := s.lane l
  let fs := prerollOf q cs
  let o := OpenItem.begin q x.inUse x.profile (x.port.counter - BitVec.ofNat 48 fs.length)
  let waits := s.memory.waiting.contains l
  let o' : OpenItem := { o with buffer := if !waits && s.canGrant l then some ⟨0, 0, []⟩ else none }
  let u : State := ({ s with memory := { s.memory with
      waiting := if waits || s.canGrant l then s.memory.waiting else s.memory.waiting ++ [l] } } : State).setLane l
    { x with queue := x.queue.drop 1, item := some o' }
  have hu : (s.setLane l { x with queue := rest, item := some o }).requestBuffer l = u := by
    have hg : (s.setLane l { x with queue := rest, item := some o }).canGrant l = s.canGrant l :=
      s.canGrant_setLane l { x with queue := rest, item := some o } (by simp [Lane.hasBuffer, hi, o, OpenItem.begin]) rfl l
    have hrest : x.queue.drop 1 = rest := by rw [show x.queue = _ from hq]; rfl
    unfold State.requestBuffer
    rw [hg]
    simp only [u, o', waits, hrest, State.setLane_memory]
    by_cases hw : s.memory.waiting.contains l = true
    · simp only [hw, if_true, Bool.true_or, Bool.not_true, Bool.false_and, Bool.false_eq_true, if_false]
      rfl
    · by_cases hc : s.canGrant l = true
      · simp only [hw, hc, if_true, Bool.or_true, Bool.not_false, Bool.true_and, Bool.false_eq_true, if_false]
        exact State.mapItem_setLane s l _ _
      · simp only [hw, hc, Bool.false_eq_true, if_false, Bool.or_false, Bool.and_false]
        rfl
  obtain ⟨p, hp⟩ := State.passFrames_push l fs u (o := o') (by simp [u])
  let v := fs.foldl (fun s f => s.passFrame l f) u
  obtain ⟨k1, k2, k3, k4, k5, k6, k7, k8, k9, k10, k11, k12⟩ := hp.keeps (by simp [u])
  let p' : OpenItem := { p with record := { p.record with programme := p.record.prog p.record.length } }
  let t : State := (v.setLane l { v.lane l with item := some p' }).raise (.lane l .itemOpened) q.item
  have hv : (v.lane l).item = some p := by rw [show v.lane l = _ from k2]
  have htl : t.lane l = { v.lane l with item := some p' } := by simp [t]
  have hprog : p.record.prog p.record.length = x.prerollTime fs.length := by
    have hlen : p.record.length = fs.length := k12.trans (Nat.zero_add _)
    unfold Recording.prog
    rw [k11, k8, hlen]
    simp [o', o, OpenItem.begin, segmentAt, Lane.prerollTime]
  have same : ∀ g, let r : Recording := { p.record with programme := g }
      r.deck = p.record.deck ∧ r.rate = p.record.rate ∧ r.channels = p.record.channels ∧ r.length = p.record.length ∧
        r.start = p.record.start ∧ r.segments = p.record.segments := fun _ => ⟨rfl, rfl, rfl, rfl, rfl, rfl⟩
  have opens : s.ItemOpensWith t l q fs := by
    obtain ⟨e1, e2, e3, e4, e5, e6⟩ := same (p.record.prog p.record.length)
    refine ⟨⟨k1, ?_, ?_, ?_, ?_, p', ?_, k3, e1.trans k7, e2.trans k8, e3.trans k9, e4.trans (k12.trans (Nat.zero_add _)), e5.trans k10, hprog,
      e6.trans k11, k4, k5, k6⟩, v, p, hp, rfl⟩
    · rw [htl, show v.lane l = _ from k2]; simp [u, x]
    · rw [htl, show v.lane l = _ from k2]; simp [u, x]
    · rw [htl, show v.lane l = _ from k2]; simp [u, x]
    · simp [t, State.isSet_raise]
    · rw [htl]
  have e : s.openHead l x.port.counter cs x.inUse = if p'.reachedTarget then t.closeItem l .length else t := by
    have opened : (v.mapItem l fun o => { o with record := o.record.reckon }).raise (.lane l .itemOpened) q.item = t :=
      congrArg (fun r : State => r.raise (.lane l .itemOpened) q.item) (State.mapItem_eq v l _ hv)
    have steps := s.openHead_cons l x.port.counter cs x.inUse hq
    rw [hu, opened, State.closeIfReached_eq t l (o := p') (by rw [htl])] at steps
    exact steps
  have reached : p'.reachedTarget = true ↔ q.ends.length = true ∧ q.target ≤ x.prerollTime fs.length := by
    simp only [OpenItem.reachedTarget, Bool.and_eq_true, decide_eq_true_eq]
    rw [show p'.queued = q from k3, show p'.record.programme = x.prerollTime fs.length from hprog]
  show s.HeadStarts (s.openHead l x.port.counter cs x.inUse) l q fs
  rw [e]
  refine ⟨fun h => ?_, fun h => ?_⟩
  · rw [if_neg (by rw [reached]; exact h)]
    exact opens
  · rw [if_pos (reached.2 h)]
    exact ⟨t, p', opens, by rw [htl], t.closeItem_itemCloses l .length (by rw [htl])⟩

end Sys2Proof.Machine
end

