-- ==== Sys2Proof/Laws/Link.lean ====
section
/-! SUPPORT. What the link, the recall unit and the monitor ports leave: the lanes and the item table. -/

namespace Sys2Proof.Machine

/-- The lanes, the item table, the RESET input and the queue of commands are as they were. -/
def State.Bench (s t : State) : Prop :=
  t.lanes = s.lanes ∧ t.table = s.table ∧ t.resetLow = s.resetLow ∧ t.pending = s.pending

theorem State.Bench.refl (s : State) : s.Bench s := ⟨rfl, rfl, rfl, rfl⟩

theorem State.Bench.trans {s t u : State} (h : s.Bench t) (k : t.Bench u) : s.Bench u :=
  ⟨k.1.trans h.1, k.2.1.trans h.2.1, k.2.2.1.trans h.2.2.1, k.2.2.2.trans h.2.2.2⟩

theorem State.raise_bench (s : State) (f : Flag) (i : Item) : s.Bench (s.raise f i) := ⟨rfl, rfl, rfl, rfl⟩
theorem State.count_bench (s : State) (f : LinkStats → LinkStats) : s.Bench (s.count f) := ⟨rfl, rfl, rfl, rfl⟩
theorem State.countMalformed_bench (s : State) : s.Bench s.countMalformed := ⟨rfl, rfl, rfl, rfl⟩
theorem State.refreshHold_bench (s : State) : s.Bench s.refreshHold := ⟨rfl, rfl, rfl, rfl⟩
theorem State.setRoute_bench (s : State) (r : RouteId) (t : Option Route) : s.Bench (s.setRoute r t) := ⟨rfl, rfl, rfl, rfl⟩
theorem State.setMonitor_bench (s : State) (id : MonitorId) (m : Monitor) : s.Bench (s.setMonitor id m) := by
  cases id <;> exact ⟨rfl, rfl, rfl, rfl⟩

theorem State.outputFrame_bench (s : State) (id : MonitorId) : s.Bench (s.outputFrame id) := by
  unfold State.outputFrame
  dsimp only
  split
  · split
    · split
      · exact s.setMonitor_bench id _
      · exact (s.setMonitor_bench id _).trans ⟨rfl, rfl, rfl, rfl⟩
    · exact s.setMonitor_bench id _
  · split <;> exact s.setMonitor_bench id _
  · exact s.setMonitor_bench id _
  · exact s.setMonitor_bench id _

/-! ### The recall unit -/

theorem State.appendFrames_bench (s : State) (r : RouteId) (t : Route) (p : RecallPacket) : s.Bench (s.appendFrames r t p) := by
  unfold State.appendFrames
  split
  · split
    · exact .refl s
    · exact s.setMonitor_bench _ _
  · exact .refl s

theorem State.finishRoute_bench (s : State) (r : RouteId) (t : Route) (st : RouteState) (c : Option Cause) :
    s.Bench (s.finishRoute r t st c) := by
  unfold State.finishRoute
  dsimp only
  have h : s.Bench ((s.setRoute r (some { t with state := st, cause := c })).raise (.routeDone r)) :=
    (s.setRoute_bench r _).trans (State.raise_bench _ _ _)
  split
  · exact h.trans (State.setMonitor_bench _ _ _)
  · exact h

theorem State.recall_bench (s : State) (p : RecallPacket) : s.Bench (s.recall p) := by
  unfold State.recall
  split
  · exact s.raise_bench _ _
  · split
    · exact .refl s
    · rename_i r _ _ t _
      split
      · dsimp only
        generalize t.carry p (s.roomFor r t p.frames.toNat) = tc
        have h : s.Bench (if tc.2 = .accepted then (s.setRoute r (some tc.1)).appendFrames r tc.1 p else s.setRoute r (some tc.1)) := by
          split
          · exact (s.setRoute_bench _ _).trans (State.appendFrames_bench _ _ _ _)
          · exact s.setRoute_bench _ _
        split
        · exact h.trans (State.finishRoute_bench _ _ _ _ _)
        · exact h
      · exact s.setRoute_bench _ _

theorem State.idleOut_bench (s : State) (r : RouteId) : s.Bench (s.idleOut r) := by
  unfold State.idleOut
  split
  · split
    · exact s.finishRoute_bench _ _ _ _
    · exact .refl s
  · exact .refl s

/-! ### The link -/

theorem State.takeHoldLimit_bench (s : State) : s.Bench s.takeHoldLimit := by
  unfold State.takeHoldLimit
  split
  · split
    · exact ⟨rfl, rfl, rfl, rfl⟩
    · exact .refl s
  · exact .refl s

theorem State.holdTick_bench (s : State) : s.Bench s.holdTick := by
  unfold State.holdTick
  split
  · exact ⟨rfl, rfl, rfl, rfl⟩
  · exact .refl s

theorem State.enterUp_bench (s : State) : s.Bench s.enterUp := ⟨rfl, rfl, rfl, rfl⟩
theorem State.cutOff_bench (s : State) : s.Bench s.cutOff := ⟨rfl, rfl, rfl, rfl⟩

theorem State.breakPacket_bench (s : State) : s.Bench s.breakPacket := by
  unfold State.breakPacket
  split
  · exact ⟨rfl, rfl, rfl, rfl⟩
  · exact .refl s

theorem State.leaveUp_bench (s : State) : s.Bench s.leaveUp := by
  unfold State.leaveUp
  exact ((s.cutOff_bench).trans (State.breakPacket_bench _)).trans ⟨rfl, rfl, rfl, rfl⟩

theorem State.receiveCommand_bench (s : State) (c : Command) : s.Bench (s.receiveCommand c) := by
  unfold State.receiveCommand
  dsimp only
  split
  · exact ⟨rfl, rfl, rfl, rfl⟩
  · exact ⟨rfl, rfl, rfl, rfl⟩

theorem State.receiveRecall_bench (s : State) (p : RecallPacket) : s.Bench (s.receiveRecall p) :=
  (s.count_bench _).trans (State.recall_bench _ _)

theorem State.receiveGate_bench (s : State) (g : Byte) : s.Bench (s.receiveGate g) := ⟨rfl, rfl, rfl, rfl⟩

theorem State.receivePacket_bench (s : State) (bs : List Byte) : s.Bench (s.receivePacket bs) := by
  unfold State.receivePacket
  dsimp only
  split
  · exact s.countMalformed_bench
  · split
    · split
      · split
        · exact s.receiveCommand_bench _
        · exact s.countMalformed_bench
      · split
        · split
          · exact s.receiveRecall_bench _
          · exact s.countMalformed_bench
        · split
          · split
            · exact s.receiveGate_bench _
            · exact s.countMalformed_bench
          · exact s.countMalformed_bench
    · exact s.countMalformed_bench

theorem State.alignWord_bench (s : State) (w : LinkWord) : s.Bench (s.alignWord w) := by
  unfold State.alignWord
  split
  · dsimp only
    split
    · exact ⟨rfl, rfl, rfl, rfl⟩
    · exact ⟨rfl, rfl, rfl, rfl⟩
  · exact ⟨rfl, rfl, rfl, rfl⟩

theorem State.upWord_bench (s : State) (w : LinkWord) : s.Bench (s.upWord w) := by
  unfold State.upWord
  split
  · dsimp only
    split
    · exact ((s.breakPacket_bench).trans ⟨rfl, rfl, rfl, rfl⟩).trans (State.leaveUp_bench _)
    · exact (s.breakPacket_bench).trans ⟨rfl, rfl, rfl, rfl⟩
  · exact State.Bench.trans ⟨rfl, rfl, rfl, rfl⟩ (State.breakPacket_bench _)
  · exact (State.Bench.trans ⟨rfl, rfl, rfl, rfl⟩ (State.breakPacket_bench { s with rx := { s.rx with run := 0 } })).trans
      ⟨rfl, rfl, rfl, rfl⟩
  · exact ⟨rfl, rfl, rfl, rfl⟩
  · split
    · exact State.Bench.trans ⟨rfl, rfl, rfl, rfl⟩ (State.receivePacket_bench _ _)
    · exact ⟨rfl, rfl, rfl, rfl⟩

theorem State.receiveWord_bench (s : State) (w : LinkWord) : s.Bench (s.receiveWord w) := by
  unfold State.receiveWord
  split
  · exact s.upWord_bench w
  · exact s.alignWord_bench w
  · split
    · exact State.Bench.trans ⟨rfl, rfl, rfl, rfl⟩ (State.alignWord_bench _ w)
    · exact .refl s

theorem State.wholePacket_bench (s : State) (f : State → State) (h : ∀ s : State, s.Bench (f s)) : s.Bench (s.wholePacket f) := by
  unfold State.wholePacket
  dsimp only
  split
  · exact (s.receiveWord_bench .start).trans (State.Bench.trans ⟨rfl, rfl, rfl, rfl⟩ (h _))
  · exact s.receiveWord_bench .start

theorem State.malformed_bench (s : State) (c : Malformation) : s.Bench (s.malformed c) := by
  unfold State.malformed
  split
  · exact (s.receiveWord_bench _).trans (State.receiveWord_bench _ _)
  · exact (s.receiveWord_bench _).trans (State.receiveWord_bench _ _)
  · exact (s.receiveWord_bench _).trans (State.receiveWord_bench _ _)
  all_goals exact s.wholePacket_bench _ State.countMalformed_bench

theorem State.signalAppears_bench (s : State) : s.Bench s.signalAppears := by
  unfold State.signalAppears
  split <;> exact ⟨rfl, rfl, rfl, rfl⟩

theorem State.signalLost_bench (s : State) : s.Bench s.signalLost := by
  unfold State.signalLost
  dsimp only
  split
  · exact State.Bench.trans ⟨rfl, rfl, rfl, rfl⟩ (State.leaveUp_bench _)
  · exact ⟨rfl, rfl, rfl, rfl⟩
  · exact ⟨rfl, rfl, rfl, rfl⟩

theorem State.transmit_bench (s : State) : s.Bench s.transmit := by
  unfold State.transmit
  dsimp only
  split
  · exact .refl s
  · split
    · exact ⟨rfl, rfl, rfl, rfl⟩
    · split
      · exact ⟨rfl, rfl, rfl, rfl⟩
      · split
        · exact ⟨rfl, rfl, rfl, rfl⟩
        · split
          · exact ⟨rfl, rfl, rfl, rfl⟩
          · exact .refl s

/-! ### Lanes near what they were -/

/-- The item table is as it was and every lane is near what it was: no record moves. -/
def State.Still (s t : State) : Prop :=
  t.table = s.table ∧ (∀ k, (s.lane k).Near (t.lane k)) ∧ t.resetLow = s.resetLow ∧ t.pending = s.pending

theorem State.Bench.still {s t : State} (h : s.Bench t) : s.Still t :=
  ⟨h.2.1, fun k => by rw [State.lane_congr h.1]; exact .refl _, h.2.2.1, h.2.2.2⟩

theorem State.Inner.still {s t : State} (h : s.Inner t) : s.Still t :=
  ⟨h.2.1, h.2.2, h.1.2.2.2.2.1, h.1.2.2.2.2.2.2⟩

theorem State.Still.refl (s : State) : s.Still s := (State.Bench.refl s).still

theorem State.Still.trans {s t u : State} (h : s.Still t) (k : t.Still u) : s.Still u :=
  ⟨k.1.trans h.1, fun l => (h.2.1 l).trans (k.2.1 l), k.2.2.1.trans h.2.2.1, k.2.2.2.trans h.2.2.2⟩

theorem State.complete_still (s : State) : s.Still s.complete := by
  unfold State.complete
  split
  · exact .refl s
  · dsimp only
    split
    · exact State.Bench.still ⟨rfl, rfl, rfl, rfl⟩
    · refine State.Still.trans ?_ (State.Inner.still (State.grant_inner _))
      exact State.Bench.still ⟨rfl, rfl, rfl, rfl⟩
    · split <;> exact State.Bench.still ⟨rfl, rfl, rfl, rfl⟩
    · exact State.Bench.still ⟨rfl, rfl, rfl, rfl⟩

end Sys2Proof.Machine
end

