-- ==== Sys2Proof/Laws/Table.lean ====
section
/-! SUPPORT. What every command of the block can do to the item table, said once: the moves of R1's table, and nothing else. -/

namespace Sys2Proof.Machine

/-- One lane seen from the item table when its profile may change: it is disabled only with no open item and an empty queue (R93). -/
def Lane.Quiet (x y : Lane) : Prop :=
  y.queue = x.queue ∧ (y.profile.enabled = false → x.profile.enabled = false ∨ (x.item = none ∧ x.queue = [])) ∧
    ((x.item = none ∧ y.item = none) ∨ ∃ o p, x.item = some o ∧ y.item = some p ∧ o.Keeps p)

theorem Lane.Near.quiet {x y : Lane} (h : x.Near y) : x.Quiet y := ⟨h.1, fun e => .inl (h.2.1 ▸ e), h.2.2⟩

theorem Lane.Quiet.refl (x : Lane) : x.Quiet x := (Lane.Near.refl x).quiet

/-- No record moves. -/
def State.Quiet (s t : State) : Prop := t.table = s.table ∧ ∀ k, (s.lane k).Quiet (t.lane k)

/-- ITEM_QUEUE accepted (R14): a free record joins the tail of an enabled lane's queue under a number that no non-FREE record carries. -/
def State.Queues (l : LaneId) (q : Queued) (s t : State) : Prop :=
  (s.lane l).profile.enabled = true ∧ (s.lane l).queue.length < Config.queuePlaces ∧ q.record ∈ s.table.pool ∧ q.item ≠ 0 ∧
    (q.ends.length = true → 1 ≤ q.target) ∧
    q.item ∉ s.numbers ∧ t.table.pool = s.table.pool.erase q.record ∧ t.table.closed = s.table.closed ∧
    (t.lane l).queue = (s.lane l).queue ++ [q] ∧ (t.lane l).item = (s.lane l).item ∧
    (t.lane l).profile = (s.lane l).profile ∧ ∀ k, k ≠ l → (s.lane k).Near (t.lane k)

/-- ITEM_WITHDRAW accepted (R15): the record at a position of a lane queue returns to the pool. -/
def State.Withdraws (l : LaneId) (n : Nat) (q : Queued) (s t : State) : Prop :=
  (s.lane l).queue[n]? = some q ∧ t.table.pool = s.table.pool ++ [q.record] ∧ t.table.closed = s.table.closed ∧
    (t.lane l).queue = (s.lane l).queue.eraseIdx n ∧ (t.lane l).item = (s.lane l).item ∧
    (t.lane l).profile = (s.lane l).profile ∧ ∀ k, k ≠ l → (s.lane k).Near (t.lane k)

/-- ITEM_RELEASE accepted (R17): a record leaves the closed list, the others in their order, and returns to the pool. -/
def State.Releases (c : ClosedRecord) (s t : State) : Prop :=
  (∃ a b, s.table.closed = a ++ c :: b ∧ t.table.closed = a ++ b) ∧ t.table.pool = s.table.pool ++ [c.queued.record] ∧
    ∀ k, (s.lane k).Near (t.lane k)

/-- The queue of a lane with an empty open slot freed by LANE_RESET (R22). -/
def State.Frees (l : LaneId) (s t : State) : Prop :=
  (s.lane l).item = none ∧ (t.lane l).item = none ∧ (t.lane l).queue = [] ∧ (t.lane l).profile = (s.lane l).profile ∧
    t.table.pool = s.table.pool ++ (s.lane l).queue.map Queued.record ∧ t.table.closed = s.table.closed ∧
    ∀ k, k ≠ l → (s.lane k).Near (t.lane k)

/-- A reset of the whole part (R21): the table and every lane as after the reset. -/
def State.Fresh (t : State) : Prop :=
  t.table = ItemTable.reset ∧ ∀ k, (t.lane k).queue = [] ∧ (t.lane k).item = none ∧ (t.lane k).profile = Profile.default

/-- What a command can do to the table (R1). -/
inductive State.Evolves : State → State → Prop
  | quiet {s t : State} : s.Quiet t → Evolves s t
  | closes {s t : State} (l : LaneId) : s.Closes l t → Evolves s t
  | opens {s t : State} (l : LaneId) : s.Opens l t → Evolves s t
  | queues {s t : State} (l : LaneId) (q : Queued) : s.Queues l q t → Evolves s t
  | withdraws {s t : State} (l : LaneId) (n : Nat) (q : Queued) : s.Withdraws l n q t → Evolves s t
  | releases {s t : State} (c : ClosedRecord) : s.Releases c t → Evolves s t
  | frees {s t : State} (l : LaneId) : s.Frees l t → Evolves s t
  | fresh {s t : State} : t.Fresh → Evolves s t
  | trans {s t u : State} : Evolves s t → Evolves t u → Evolves s u

theorem State.Still.evolves {s t : State} (h : s.Still t) : s.Evolves t := .quiet ⟨h.1, fun k => (h.2.1 k).quiet⟩

theorem State.Bench.evolves {s t : State} (h : s.Bench t) : s.Evolves t := h.still.evolves

theorem State.Evolves.refl (s : State) : s.Evolves s := (State.Still.refl s).evolves

theorem State.Moves.evolves {s t : State} (h : s.Moves t) : s.Evolves t := by
  induction h with
  | inner h => exact h.still.evolves
  | closes l h => exact .closes l h
  | opens l h => exact .opens l h
  | trans _ _ h k => exact .trans h k

/-- A state alike in lanes and table. -/
theorem State.evolves_of_same {s t : State} (hl : t.lanes = s.lanes) (ht : t.table = s.table) : s.Evolves t :=
  .quiet ⟨ht, fun k => by rw [State.lane_congr hl]; exact .refl _⟩

/-! ### Commands executed -/

/-- What a row of the command table can do, from what its body can do. -/
theorem State.runCommand_evolves (s : State) (mine : Byte → Bool) (body : List Byte → State → Reaction)
    (h : ∀ ps u, State.Evolves u (body ps u).state) : s.Evolves (s.runCommand mine body) := by
  unfold State.runCommand
  split
  · split
    · exact .trans (.trans (s.evolves_of_same (t := s.takeCommand) rfl rfl) (h _ _)) (State.evolves_of_same rfl rfl)
    · exact .refl s
  · exact .refl s

theorem counted_evolves (n : Nat) (body : List Byte → State → Reaction) (h : ∀ ps u, State.Evolves u (body ps u).state)
    (ps : List Byte) (u : State) : u.Evolves (counted n body ps u).state := by
  unfold counted
  split
  · exact h _ _
  · exact .refl u

theorem onLane_evolves (body : LaneId → List Byte → State → Reaction) (h : ∀ l ps u, State.Evolves u (body l ps u).state)
    (ps : List Byte) (u : State) : u.Evolves (onLane body ps u).state := by
  unfold onLane
  split
  · exact h _ _ _
  · exact .refl u

/-! ### The lookup (R2) -/

/-- A number found on no lane and in no closed record is carried by no non-FREE record. -/
theorem State.find_none {s : State} {item : Item} (h : s.find item = none) : item ∉ s.numbers := by
  unfold State.find at h
  split at h
  · simp at h
  · rename_i hl
    rw [List.findSome?_eq_none_iff] at hl
    simp only [Option.map_eq_none_iff, List.find?_eq_none, beq_iff_eq] at h
    simp only [State.numbers, List.mem_append, List.mem_flatMap, List.mem_map, not_or, not_exists, not_and]
    refine ⟨fun x hx => ?_, fun c hc e => h c hc e⟩
    obtain ⟨i, hi, rfl⟩ := List.mem_iff_getElem.1 hx
    have hi' : i < 8 := by simpa using hi
    have hk := hl ⟨i, hi'⟩ (List.mem_finRange _)
    have hlane : s.lane ⟨i, hi'⟩ = s.lanes.toList[i] := by simp [State.lane]
    rw [hlane] at hk
    generalize s.lanes.toList[i] = x at hk
    have hqueue : Lane.find.queueFind ⟨i, hi'⟩ item x = none → item ∉ x.queue.map Queued.item := by
      unfold Lane.find.queueFind
      split
      · rename_i n hn
        rw [List.findIdx?_eq_some_iff_getElem] at hn
        obtain ⟨hn, _⟩ := hn
        simp [hn]
      · rename_i hn
        rw [List.findIdx?_eq_none_iff] at hn
        intro _ hm
        obtain ⟨q, hq, e⟩ := List.mem_map.1 hm
        have := hn q hq
        simp [e] at this
    unfold Lane.find at hk
    simp only [Lane.numbers, List.mem_append, not_or]
    split at hk
    · rename_i o ho
      split at hk
      · simp at hk
      · rename_i hne
        exact ⟨hqueue hk, by simpa [ho] using fun e => hne e.symm⟩
    · rename_i ho
      exact ⟨hqueue hk, by simp [ho]⟩

/-- A record found QUEUED stands at its position. -/
theorem State.find_queued {s : State} {item : Item} {l : LaneId} {n : Nat} {q : Queued} (h : s.find item = some (.queued l n q)) :
    (s.lane l).queue[n]? = some q ∧ q.item = item := by
  unfold State.find at h
  split at h
  · rename_i f hf
    obtain rfl : f = .queued l n q := by simpa using h
    obtain ⟨k, _, hk⟩ := List.exists_of_findSome?_eq_some hf
    have hqueue : Lane.find.queueFind k item (s.lane k) = some (.queued l n q) → (s.lane l).queue[n]? = some q ∧ q.item = item := by
      unfold Lane.find.queueFind
      split
      · rename_i m hm
        intro he
        obtain ⟨q', hq', he⟩ := Option.map_eq_some_iff.1 he
        obtain ⟨rfl, rfl, rfl⟩ : k = l ∧ m = n ∧ q' = q := by simpa using he
        rw [List.findIdx?_eq_some_iff_getElem] at hm
        obtain ⟨hm, hb, _⟩ := hm
        refine ⟨hq', ?_⟩
        rw [List.getElem?_eq_getElem hm] at hq'
        simpa [Option.some.inj hq'] using hb
      · simp
    unfold Lane.find at hk
    split at hk
    · split at hk
      · simp at hk
      · exact hqueue hk
    · exact hqueue hk
  · simp at h

/-- A record found OPEN stands in its lane's open slot. -/
theorem State.find_opened {s : State} {item : Item} {l : LaneId} {o : OpenItem} (h : s.find item = some (.opened l o)) :
    (s.lane l).item = some o ∧ o.queued.item = item := by
  unfold State.find at h
  split at h
  · rename_i f hf
    obtain rfl : f = .opened l o := by simpa using h
    obtain ⟨k, _, hk⟩ := List.exists_of_findSome?_eq_some hf
    have hqueue : Lane.find.queueFind k item (s.lane k) ≠ some (.opened l o) := by
      unfold Lane.find.queueFind
      split
      · intro he
        obtain ⟨q', _, he⟩ := Option.map_eq_some_iff.1 he
        simp at he
      · simp
    unfold Lane.find at hk
    split at hk
    · rename_i p hp
      split at hk
      · rename_i e
        obtain ⟨rfl, rfl⟩ : k = l ∧ p = o := by simpa using hk
        exact ⟨hp, e⟩
      · exact absurd hk hqueue
    · exact absurd hk hqueue
  · simp at h

/-- A record found CLOSED is the first of the closed list under its number. -/
theorem State.find_closed {s : State} {item : Item} {c : ClosedRecord} (h : s.find item = some (.closed c)) :
    (s.table.closed.find? fun x => x.queued.item == item) = some c ∧ c.queued.item = item := by
  unfold State.find at h
  split at h
  · rename_i f hf
    obtain rfl : f = .closed c := by simpa using h
    obtain ⟨k, _, hk⟩ := List.exists_of_findSome?_eq_some hf
    have hqueue : Lane.find.queueFind k item (s.lane k) ≠ some (.closed c) := by
      unfold Lane.find.queueFind
      split
      · intro he
        obtain ⟨q', _, he⟩ := Option.map_eq_some_iff.1 he
        simp at he
      · simp
    unfold Lane.find at hk
    split at hk
    · split at hk
      · simp at hk
      · exact absurd hk hqueue
    · exact absurd hk hqueue
  · obtain ⟨c', hc, he⟩ := Option.map_eq_some_iff.1 h
    obtain rfl : c' = c := by simpa using he
    exact ⟨hc, by simpa using List.find?_some hc⟩

end Sys2Proof.Machine
end

