-- ==== Sys2Proof/Laws/Exec.lean ====
section
/-! SUPPORT. Every command's moves of the item table. -/

namespace Sys2Proof.Machine

/-! ### Resets of the whole part -/

/-- The lanes after a reset of the whole part: each in its reset state, its cue line sampled afresh. -/
theorem State.getElem_resetLanes (s : State) (held : Bool) (k : LaneId) :
    (s.resetLanes held)[k] = Lane.afterReset (s.lane k).cue.low
      (if (s.lane k).cue.low && !held then some Profile.default.debounce else none) := by
  simp [State.resetLanes, State.lane]

theorem State.lane_resetAll (s : State) (held : Bool) (c : ResetCause) (k : LaneId) :
    (s.resetAll held c).lane k = Lane.afterReset (s.lane k).cue.low
      (if (s.lane k).cue.low && !held then some Profile.default.debounce else none) := s.getElem_resetLanes held k

theorem State.lane_deviceReset (s : State) (k : LaneId) :
    s.deviceReset.lane k = Lane.afterReset (s.lane k).cue.low
      (if (s.lane k).cue.low && !false then some Profile.default.debounce else none) := s.getElem_resetLanes false k

theorem State.resetAll_fresh (s : State) (held : Bool) (c : ResetCause) : (s.resetAll held c).Fresh :=
  ⟨rfl, fun k => by rw [State.lane_resetAll]; exact ⟨rfl, rfl, rfl⟩⟩

theorem State.deviceReset_fresh (s : State) : s.deviceReset.Fresh :=
  ⟨rfl, fun k => by rw [State.lane_deviceReset]; exact ⟨rfl, rfl, rfl⟩⟩

theorem State.takeReset_evolves (s : State) : s.Evolves s.takeReset := by
  unfold State.takeReset
  split
  · exact .fresh s.deviceReset_fresh
  · exact .refl s

theorem State.settle_evolves (s : State) : s.Evolves s.settle :=
  .trans s.takeReset_evolves (State.takeHoldLimit_bench _).evolves

/-! ### Every command -/

/-- The state that an answer carries, if it is a next state, comes of these moves. -/
def Evolving (s : State) (o : Host.Outcome State Fault Refusal) : Prop := ∃ t, o = .next t ∧ s.Evolves t

theorem running_evolving (s : State) (f : State → State) (h : ∀ u : State, u.Evolves (f u)) : Evolving s (running s f) := by
  refine ⟨_, rfl, ?_⟩
  split
  · exact .refl s
  · exact .trans s.settle_evolves (h _)

theorem command_evolving (s : State) (code : Byte) (body : List Byte → State → Reaction)
    (h : ∀ ps u, State.Evolves u (body ps u).state) : Evolving s (command s code body) :=
  running_evolving s _ fun u => u.runCommand_evolves _ body h

theorem accept_evolves {s t : State} {r : List Byte} (h : s.Evolves t) : s.Evolves (accept t r).state := h

theorem refuse_evolves (s : State) (st : Status) : s.Evolves (refuse s st).state := .refl s

/-- A change outside the lanes and the table. -/
theorem accept_same {s t : State} {r : List Byte} (hl : t.lanes = s.lanes) (ht : t.table = s.table) : s.Evolves (accept t r).state :=
  State.evolves_of_same hl ht

/-- A change of one lane that moves no record. -/
theorem State.mapLane_evolves (s : State) (l : LaneId) (f : Lane → Lane) (h : (s.lane l).Quiet (f (s.lane l))) : s.Evolves (s.mapLane l f) := by
  refine .quiet ⟨rfl, fun k => ?_⟩
  rw [State.lane_mapLane_eq]
  split
  · subst k; exact h
  · exact .refl _

theorem probe_evolves (ps : List Byte) (s : State) : s.Evolves (probe ps s).state := .refl s

theorem deviceResetCommand_evolves (ps : List Byte) (s : State) : s.Evolves (deviceResetCommand ps s).state :=
  State.evolves_of_same rfl rfl

theorem linkStats_evolves (ps : List Byte) (s : State) : s.Evolves (linkStats ps s).state := State.evolves_of_same rfl rfl

theorem eventRead_evolves (ps : List Byte) (s : State) : s.Evolves (eventRead ps s).state := by
  unfold eventRead
  split
  · exact State.evolves_of_same rfl rfl
  · exact .refl s

theorem eventMask_evolves (ps : List Byte) (s : State) : s.Evolves (eventMask ps s).state := by
  unfold eventMask
  dsimp only
  split
  · refine accept_evolves (.trans ?_ (State.takeHoldLimit_bench _).evolves)
    exact State.evolves_of_same rfl rfl
  · exact .refl s

theorem State.raiseAll_bench (fs : List Flag) (s : State) : s.Bench (fs.foldl (fun s f => s.raise f) s) := by
  induction fs generalizing s with
  | nil => exact .refl s
  | cons f fs ih => exact (s.raise_bench f 0).trans (ih _)

theorem eventForce_evolves (ps : List Byte) (s : State) : s.Evolves (eventForce ps s).state := by
  unfold eventForce
  split
  · exact (State.raiseAll_bench _ s).evolves
  · exact .refl s

/-! ### Lane commands -/

/-- An enabled lane that is IDLE has no open item and an empty queue (R23). -/
theorem Lane.transfer_idle {x : Lane} (he : x.profile.enabled = true) (h : x.transfer = .idle) : x.item = none ∧ x.queue = [] := by
  unfold Lane.transfer at h
  cases hi : x.item with
  | none =>
    cases hq : x.queue with
    | nil => exact ⟨rfl, rfl⟩
    | cons q qs => simp [he, hi, hq] at h
  | some o => cases hd : o.dropout <;> simp [he, hi, hd] at h

theorem State.applyProfile_evolves (s : State) (l : LaneId) (p : Profile)
    (h : p.enabled = false → (s.lane l).profile.enabled = false ∨ ((s.lane l).item = none ∧ (s.lane l).queue = [])) :
    s.Evolves (s.applyProfile l p) := by
  unfold State.applyProfile
  dsimp only
  have h1 : s.Evolves (s.mapLane l fun x => ({ x with profile := p } : Lane).trimRing) := by
    refine s.mapLane_evolves l _ ⟨rfl, h, ?_⟩
    exact (Lane.Near.refl (s.lane l)).2.2
  split
  · refine .trans h1 (.trans (State.restartMeasurement_moves _ l).evolves ?_)
    split
    · exact (State.loseLock_moves _ _).evolves
    · exact .refl _
  · exact h1

theorem laneSet_evolves (l : LaneId) (ps : List Byte) (s : State) : s.Evolves (laneSet l ps s).state := by
  unfold laneSet
  dsimp only
  split
  · exact .refl s
  · rename_i p hp
    split
    · exact .refl s
    · split
      · exact .refl s
      · rename_i hdis
        split
        · exact .refl s
        · refine State.applyProfile_evolves s l _ fun he => ?_
          cases hx : (s.lane l).profile.enabled with
          | false => exact .inl rfl
          | true =>
            right
            simp only [hx, Bool.not_true, Bool.false_and, Bool.false_eq_true, if_false] at he
            simp only [hx, he, Bool.not_false, Bool.and_self, Bool.true_and, bne_iff_ne, ne_eq, Decidable.not_not] at hdis
            exact Lane.transfer_idle hx hdis

theorem laneGet_evolves (l : LaneId) (ps : List Byte) (s : State) : s.Evolves (laneGet l ps s).state := .refl s

theorem laneStatus_evolves (l : LaneId) (ps : List Byte) (s : State) : s.Evolves (laneStatus l ps s).state :=
  accept_evolves (s.mapLane_evolves l _ (Lane.near_of_same rfl rfl rfl).quiet)

theorem State.closeItem_empty (s : State) (l : LaneId) (r : CloseReason) : ((s.closeItem l r).lane l).item = none := by
  cases ho : (s.lane l).item with
  | none => simp [State.closeItem, ho]
  | some o => exact (s.closeItem_closes l r ho).2.2.2.1

theorem State.closeItem_queue (s : State) (l : LaneId) (r : CloseReason) : ((s.closeItem l r).lane l).queue = (s.lane l).queue := by
  cases ho : (s.lane l).item with
  | none => simp [State.closeItem, ho]
  | some o => exact (s.closeItem_closes l r ho).2.1

theorem laneReset_evolves (l : LaneId) (ps : List Byte) (s : State) : s.Evolves (laneReset l ps s).state := by
  unfold laneReset
  dsimp only [accept]
  have h1 : s.Evolves { s with events := { s.events with lanes := s.events.lanes.set l 0 } } := State.evolves_of_same rfl rfl
  have hq : ((({ s with events := { s.events with lanes := s.events.lanes.set l 0 } } : State).closeItem l .laneReset).lane l).queue
      = (s.lane l).queue := State.closeItem_queue _ l _
  have h2 := State.Evolves.trans h1 (State.closeItem_moves _ l .laneReset).evolves
  have hi := State.closeItem_empty { s with events := { s.events with lanes := s.events.lanes.set l 0 } } l .laneReset
  generalize ({ s with events := { s.events with lanes := s.events.lanes.set l 0 } } : State).closeItem l .laneReset = t at h2 hi hq ⊢
  refine .trans h2 (.frees l ⟨hi, ?_, ?_, ?_, ?_, rfl, fun k hk => ?_⟩)
  · rw [State.lane_mapLane]; rfl
  · rw [State.lane_mapLane]; rfl
  · rw [State.lane_mapLane]; rfl
  · rw [hq]; rfl
  · rw [State.lane_mapLane_ne _ _ hk]; exact .refl _

theorem OpenItem.speedSet_keeps {o p : OpenItem} {r : Ratio} (h : o.speedSet r = some p) : o.Keeps p := by
  unfold OpenItem.speedSet at h
  split at h
  · obtain rfl := Option.some.inj h
    exact ⟨rfl, fun ⟨a, _⟩ => ⟨a, by simp⟩⟩
  · split at h
    · rename_i hl
      obtain rfl := Option.some.inj h
      exact ⟨rfl, fun ⟨a, _⟩ => ⟨a, fun _ => hl⟩⟩
    · simp at h

theorem speedSet_evolves (l : LaneId) (ps : List Byte) (s : State) : s.Evolves (speedSet l ps s).state := by
  unfold speedSet
  dsimp only
  split
  · exact .refl s
  · split
    · exact .refl s
    · split
      · exact accept_evolves (s.mapLane_evolves l _ ⟨rfl, fun e => .inl e, (Lane.Near.refl (s.lane l)).2.2⟩)
      · rename_i o ho
        split
        · exact .refl s
        · rename_i p hp
          exact accept_evolves (s.mapLane_evolves l _ ⟨rfl, fun e => .inl e, .inr ⟨o, p, ho, rfl, OpenItem.speedSet_keeps hp⟩⟩)

theorem inject_evolves (l : LaneId) (ps : List Byte) (s : State) : s.Evolves (inject l ps s).state := by
  unfold inject
  dsimp only
  split
  · exact accept_evolves (s.mapLane_evolves l _ (Lane.near_of_same rfl rfl rfl).quiet)
  · exact .refl s

/-! ### Item commands -/

/-- The item number of well-formed parameters of ITEM_QUEUE is not 0, and a target is given with the LENGTH end condition (R13). -/
theorem queueParams_spec {ps : List Byte} {p : QueueParams} (h : queueParams ps = some p) :
    p.item ≠ 0 ∧ (p.ends.length = true → 1 ≤ p.target) := by
  unfold queueParams at h
  dsimp only at h
  split at h
  · rw [Option.ite_none_right_eq_some] at h
    obtain ⟨hc, e⟩ := h
    obtain rfl := Option.some.inj e
    simp only [Bool.and_eq_true, decide_eq_true_eq, ne_eq] at hc
    refine ⟨fun e => hc.1.1.1 ?_, fun e => ?_⟩
    · have hlt : field ps 1 4 < 2 ^ 32 := field_lt ps 1 4
      have := congrArg BitVec.toNat e
      simp only [BitVec.toNat_ofNat, Nat.mod_eq_of_lt hlt] at this
      simpa using this
    · have := hc.1.1.2
      rw [if_pos e] at this
      exact Nat.pos_of_ne_zero (by simpa using this)
  · simp at h

theorem Lane.armIfWaiting_spec (x : Lane) :
    x.armIfWaiting.queue = x.queue ∧ x.armIfWaiting.item = x.item ∧ x.armIfWaiting.profile = x.profile := by
  unfold Lane.armIfWaiting
  split <;> exact ⟨rfl, rfl, rfl⟩

theorem itemQueue_evolves (l : LaneId) (ps : List Byte) (s : State) : s.Evolves (itemQueue l ps s).state := by
  unfold itemQueue
  dsimp only
  split
  · exact .refl s
  · rename_i hen
    split
    · exact .refl s
    · rename_i p hp
      split
      · exact .refl s
      · rename_i hdup
        split
        · exact .refl s
        · rename_i record hrec
          split
          · exact .refl s
          · rename_i hfull
            refine accept_evolves (.queues l ⟨record, p.item, p.startRule, p.ends, p.target, p.preroll, p.label⟩ ⟨by simpa using hen, by omega,
              List.mem_of_find?_eq_some hrec, (queueParams_spec hp).1, (queueParams_spec hp).2, State.find_none (by simpa using hdup), rfl, rfl, ?_⟩)
            have hx : ∀ y : Lane, (if (s.lane l).queue.isEmpty then y.armIfWaiting else y).queue = y.queue ∧
                (if (s.lane l).queue.isEmpty then y.armIfWaiting else y).item = y.item ∧
                (if (s.lane l).queue.isEmpty then y.armIfWaiting else y).profile = y.profile := fun y => by
              split
              · exact y.armIfWaiting_spec
              · exact ⟨rfl, rfl, rfl⟩
            simp only [State.lane_setLane]
            refine ⟨(hx _).1, (hx _).2.1, (hx _).2.2, fun k hk => ?_⟩
            rw [State.lane_setLane_ne _ _ hk]
            exact .refl _

theorem itemWithdraw_evolves (ps : List Byte) (s : State) : s.Evolves (itemWithdraw ps s).state := by
  unfold itemWithdraw
  split
  · exact .refl s
  · rename_i l n q hf
    refine accept_evolves (.withdraws l n q ⟨(State.find_queued hf).1, rfl, rfl, ?_⟩)
    have hx : ∀ y : Lane, (if n = 0 then y.armIfWaiting else y).queue = y.queue ∧
        (if n = 0 then y.armIfWaiting else y).item = y.item ∧ (if n = 0 then y.armIfWaiting else y).profile = y.profile := fun y => by
      split
      · exact y.armIfWaiting_spec
      · exact ⟨rfl, rfl, rfl⟩
    simp only [State.lane_mapLane]
    refine ⟨(hx _).1, (hx _).2.1, (hx _).2.2, fun k hk => ?_⟩
    rw [State.lane_mapLane_ne _ _ hk]
    exact .refl _
  · exact .refl s

theorem itemStart_evolves (ps : List Byte) (s : State) : s.Evolves (itemStart ps s).state := by
  unfold itemStart
  dsimp only
  split
  · exact .refl s
  · rename_i l n q hf
    split
    · exact .refl s
    · rename_i harmed
      split
      · exact .refl s
      · refine accept_evolves (State.openNow_moves s l ?_).evolves
        simp only [Bool.or_eq_true, bne_iff_ne, ne_eq, not_or, Decidable.not_not, decide_eq_true_eq] at harmed
        have ht := harmed.2
        unfold Lane.transfer at ht
        cases hi : (s.lane l).item with
        | none => rfl
        | some o => cases hd : o.dropout <;> cases he : (s.lane l).profile.enabled <;> simp [he, hi, hd] at ht
  · exact .refl s

theorem closeByCommand_evolves (r : CloseReason) (ps : List Byte) (s : State) : s.Evolves (closeByCommand r ps s).state := by
  unfold closeByCommand
  split
  · exact .refl s
  · exact accept_evolves (s.closeItem_moves _ _).evolves
  · exact .refl s

theorem itemMark_evolves (ps : List Byte) (s : State) : s.Evolves (itemMark ps s).state := by
  unfold itemMark
  dsimp only
  split
  · exact .refl s
  · split
    · exact .refl s
    · rename_i l o hf
      exact accept_evolves (s.mapLane_evolves l _ ⟨rfl, fun e => .inl e,
        .inr ⟨o, _, (State.find_opened hf).1, rfl, o.raiseMark_keeps _ rfl⟩⟩)
    · exact .refl s

theorem itemRead_evolves (ps : List Byte) (s : State) : s.Evolves (itemRead ps s).state := by
  unfold itemRead
  split <;> exact .refl s

theorem itemRelease_evolves (ps : List Byte) (s : State) : s.Evolves (itemRelease ps s).state := by
  unfold itemRelease
  split
  · exact .refl s
  · rename_i c hf
    obtain ⟨hc, _⟩ := State.find_closed hf
    have hname : (fun x : ClosedRecord => x.queued.item == c.queued.item) c = true := by simp
    obtain ⟨hp, as, bs, hl, has⟩ := List.find?_eq_some_iff_append.1 hc
    refine accept_evolves (.releases c ⟨⟨as, bs, hl, ?_⟩, rfl, fun k => .refl _⟩)
    simp only [beq_iff_eq] at hp
    simp only [hl]
    rw [List.eraseP_append_right _ (fun b hb => by have := has b hb; rw [← hp] at this; simpa using this)]
    simp
  · exact .refl s

theorem tableStatus_evolves (ps : List Byte) (s : State) : s.Evolves (tableStatus ps s).state := .refl s

/-! ### Route and monitor commands -/

theorem routeSet_evolves (ps : List Byte) (s : State) : s.Evolves (routeSet ps s).state := by
  unfold routeSet
  split
  · exact .refl s
  · split
    · exact .refl s
    · split
      · exact .refl s
      · split
        · exact .refl s
        · exact accept_evolves (s.setRoute_bench _ _).evolves

theorem State.flushFor_bench (s : State) (r : RouteId) (t : Route) : s.Bench (s.flushFor r t) := by
  unfold State.flushFor
  split
  · exact s.setMonitor_bench _ _
  · exact .refl s

theorem routeClear_evolves (ps : List Byte) (s : State) : s.Evolves (routeClear ps s).state := by
  unfold routeClear
  split
  · exact .refl s
  · split
    · exact .refl s
    · dsimp only
      refine accept_evolves (State.Bench.evolves ?_)
      exact (s.flushFor_bench _ _).trans (State.Bench.trans ⟨rfl, rfl, rfl, rfl⟩ (State.setRoute_bench _ _ _))

theorem routeRead_evolves (ps : List Byte) (s : State) : s.Evolves (routeRead ps s).state := by
  unfold routeRead
  split <;> exact .refl s

theorem monitorSelect_evolves (ps : List Byte) (s : State) : s.Evolves (monitorSelect ps s).state := by
  have hd : ∀ id src, s.Evolves (monitorSelect.done s id src).state := fun id src => accept_evolves (s.setMonitor_bench _ _).evolves
  unfold monitorSelect
  split
  · exact hd _ _
  · split
    · exact hd _ _
    · exact .refl s
  · exact hd _ _
  · exact .refl s

theorem monitorStatus_evolves (ps : List Byte) (s : State) : s.Evolves (monitorStatus ps s).state := by
  unfold monitorStatus
  split
  · exact .refl s
  · exact accept_evolves (s.setMonitor_bench _ _).evolves

/-! ### All of them -/

/-- Every command answers a next state, and moves records by the moves of R1 alone. -/
theorem exec_evolving (c : Instr) (s : State) : Evolving s (exec c s) := by
  cases c with
  | probe => exact command_evolving _ _ _ (counted_evolves _ _ probe_evolves)
  | deviceReset => exact command_evolving _ _ _ (counted_evolves _ _ deviceResetCommand_evolves)
  | deviceResetEffect =>
    refine ⟨_, rfl, ?_⟩
    split
    · exact .refl s
    · exact s.takeReset_evolves
  | linkStats => exact command_evolving _ _ _ (counted_evolves _ _ linkStats_evolves)
  | eventRead => exact command_evolving _ _ _ (counted_evolves _ _ eventRead_evolves)
  | eventMask => exact command_evolving _ _ _ (counted_evolves _ _ eventMask_evolves)
  | eventForce => exact command_evolving _ _ _ (counted_evolves _ _ eventForce_evolves)
  | laneSet => exact command_evolving _ _ _ (counted_evolves _ _ (onLane_evolves _ laneSet_evolves))
  | laneGet => exact command_evolving _ _ _ (counted_evolves _ _ (onLane_evolves _ laneGet_evolves))
  | laneStatus => exact command_evolving _ _ _ (counted_evolves _ _ (onLane_evolves _ laneStatus_evolves))
  | laneReset => exact command_evolving _ _ _ (counted_evolves _ _ (onLane_evolves _ laneReset_evolves))
  | speedSet => exact command_evolving _ _ _ (counted_evolves _ _ (onLane_evolves _ speedSet_evolves))
  | inject => exact command_evolving _ _ _ (counted_evolves _ _ (onLane_evolves _ inject_evolves))
  | itemQueue =>
    refine command_evolving _ _ _ fun ps u => ?_
    split
    · exact onLane_evolves _ itemQueue_evolves _ _
    · exact .refl u
  | itemWithdraw => exact command_evolving _ _ _ (counted_evolves _ _ itemWithdraw_evolves)
  | itemStart => exact command_evolving _ _ _ (counted_evolves _ _ itemStart_evolves)
  | itemEnd => exact command_evolving _ _ _ (counted_evolves _ _ (closeByCommand_evolves _))
  | itemAbandon => exact command_evolving _ _ _ (counted_evolves _ _ (closeByCommand_evolves _))
  | itemMark => exact command_evolving _ _ _ (counted_evolves _ _ itemMark_evolves)
  | itemRead => exact command_evolving _ _ _ (counted_evolves _ _ itemRead_evolves)
  | itemRelease => exact command_evolving _ _ _ (counted_evolves _ _ itemRelease_evolves)
  | tableStatus => exact command_evolving _ _ _ (counted_evolves _ _ tableStatus_evolves)
  | routeSet => exact command_evolving _ _ _ (counted_evolves _ _ routeSet_evolves)
  | routeClear => exact command_evolving _ _ _ (counted_evolves _ _ routeClear_evolves)
  | routeRead => exact command_evolving _ _ _ (counted_evolves _ _ routeRead_evolves)
  | monitorSelect => exact command_evolving _ _ _ (counted_evolves _ _ monitorSelect_evolves)
  | monitorStatus => exact command_evolving _ _ _ (counted_evolves _ _ monitorStatus_evolves)
  | powerOn => exact ⟨_, rfl, .fresh (s.resetAll_fresh _ _)⟩
  | resetLineAssert => exact ⟨_, rfl, .fresh (s.resetAll_fresh _ _)⟩
  | resetLineRelease =>
    refine ⟨_, rfl, ?_⟩
    split
    · exact .fresh (s.resetAll_fresh _ _)
    · exact .refl s
  | arrivingFrame l slot => exact running_evolving _ _ fun u => (u.slotArrives_moves l slot).evolves
  | injectionCountdownEnd l slot =>
    show Evolving s (execInjectionCountdownEnd l slot s)
    unfold execInjectionCountdownEnd
    refine running_evolving _ _ fun u => ?_
    split
    · exact (u.slotArrives_moves l slot).evolves
    · exact .refl u
  | detectorWindowEnd l slot =>
    show Evolving s (execDetectorWindowEnd l slot s)
    unfold execDetectorWindowEnd
    refine running_evolving _ _ fun u => ?_
    split
    · exact (u.slotArrives_moves l slot).evolves
    · exact .refl u
  | rateWindowEnd l n t ms => exact running_evolving _ _ fun u => (u.endWindow_moves l n t ms).evolves
  | clockLoss l => exact running_evolving _ _ fun u => (u.loseClock_moves l).evolves
  | dropoutExpiry l => exact running_evolving _ _ fun u => (u.expireDropout_moves l).evolves
  | cueLineChange l low =>
    refine ⟨_, rfl, ?_⟩
    split
    · exact s.mapLane_evolves l _ (Lane.near_of_same rfl rfl rfl).quiet
    · exact .trans s.settle_evolves (State.mapLane_evolves _ l _ (Lane.near_of_same rfl rfl rfl).quiet)
  | cueDebounceEnd l => exact running_evolving _ _ fun u => (u.endDebounce_moves l).evolves
  | linkSignalAppear =>
    refine ⟨_, rfl, ?_⟩
    split
    · exact State.evolves_of_same rfl rfl
    · exact .trans s.settle_evolves (State.signalAppears_bench _).evolves
  | linkSignalLost =>
    refine ⟨_, rfl, ?_⟩
    split
    · exact State.evolves_of_same rfl rfl
    · exact .trans s.settle_evolves (State.signalLost_bench _).evolves
  | linkWord w => exact running_evolving _ _ fun u => (u.receiveWord_bench _).evolves
  | commandPacket tag code ps =>
    refine running_evolving _ _ fun u => (u.wholePacket_bench _ fun v => ?_).evolves
    split
    · exact v.receiveCommand_bench _
    · exact v.countMalformed_bench
  | recallPacket p =>
    refine running_evolving _ _ fun u => (u.wholePacket_bench _ fun v => ?_).evolves
    split
    · exact v.receiveRecall_bench _
    · exact v.countMalformed_bench
  | routeIdleTimeout r => exact running_evolving _ _ fun u => (u.idleOut_bench r).evolves
  | gatePacket g => exact running_evolving _ _ fun u => (u.wholePacket_bench _ fun v => v.receiveGate_bench g).evolves
  | malformedPacket cause => exact running_evolving _ _ fun u => (u.malformed_bench cause).evolves
  | holdLimitReached => exact running_evolving _ _ fun u => u.takeHoldLimit_bench.evolves
  | transmitStart => exact running_evolving _ _ fun u => u.transmit_bench.evolves
  | packetSent => exact running_evolving _ _ fun u => u.complete_still.evolves
  | monitorOutputFrame port => exact running_evolving _ _ fun u => (u.outputFrame_bench port).evolves
  | unknownCommandCode =>
    exact running_evolving _ _ fun u => u.runCommand_evolves _ _ fun _ v => refuse_evolves v _
  | holdMillisecond => exact running_evolving _ _ fun u => u.holdTick_bench.evolves

end Sys2Proof.Machine
end

