-- ==== Sys2Proof/Laws/Port.lean ====
section
/-! SUPPORT. What a LOCKED lane port and its detector make of the slot that it takes (R84, R87 to R89, R99 to R106), and what the cutting engine leaves of the lane. -/

namespace Sys2Proof.Machine

/-! ### The arriving slot -/

/-- A LOCKED port hears the status word bits of a slot as R87 and R88 have it. -/
theorem LanePort.hears_arrive (x : Lane) (slot : Slot) (hk : x.port.lock = .locked) (q : LanePort)
    (h1 : q.assembly = (x.arrive slot).port.assembly) (h2 : q.rejected = (x.arrive slot).port.rejected)
    (h3 : q.declared = (x.arrive slot).port.declared) (h4 : q.motion = (x.arrive slot).port.motion) :
    x.port.Hears q slot ((failsParity slot.a || x.port.injection == 1) || failsParity slot.b) := by
  have hone : ((BitVec.ofBool (wordAux slot.a)).setWidth 64) = (if slot.a.getLsbD 1 then 1 else 0 : BitVec 64) := by
    simp only [wordAux]; cases slot.a.getLsbD 1 <;> decide
  have hm : wordAux slot.b = slot.b.getLsbD 1 := rfl
  unfold LanePort.Hears
  rw [h1, h2, h3, h4]
  clear h1 h2 h3 h4
  obtain ⟨profile, port, cue, det, ring, el, queue, item, bl⟩ := x
  obtain ⟨lock, measured, wc, wl, counter, concealed, rejected, injection, ga, gb, assembly, declared, motion⟩ := port
  dsimp only at hk ⊢
  subst hk
  simp only [Lane.arrive, reduceCtorEq, if_false, beq_self_eq_true, Bool.true_and, if_true]
  cases assembly with
  | waiting =>
    simp only [Assembly.feed, hone, hm]
    simp [sat_eq, Config.count16]
  | collecting n word spoiled =>
    simp only [Assembly.feed, hone, hm]
    refine ⟨(nomatch ·), ?_⟩
    intro n' word' spoiled' e
    cases e
    refine ⟨fun h => ?_, fun h h' => ?_, fun h h' h'' => ?_, fun h h' h'' hd d m hg => ?_⟩
    · rw [h]; simp [sat_eq, Config.count16]
    · have : n + 1 < 64 := by omega
      rw [h]; simp [this, sat_eq, Config.count16]
    · have : ¬n + 1 < 64 := by omega
      rw [h]
      simp only [this, if_false, Bool.false_eq_true]
      by_cases hsp : (spoiled || ((failsParity slot.a || injection == 1) || failsParity slot.b)) = true
      · simp only [hsp]
        simp [sat_eq, Config.count16]
      · have hg : goodWord ((word <<< 1) ||| (if slot.a.getLsbD 1 then 1 else 0)) = none := by
          rcases h'' with h'' | h'' | h''
          · exact absurd (by simp [h'']) hsp
          · exact absurd (by simp only [h'', Bool.or_true]) hsp
          · exact h''
        simp only [hsp]
        simp only [Bool.false_eq_true, if_false, Option.map_some, hg]
        simp [sat_eq, Config.count16]
    · have : ¬n + 1 < 64 := by omega
      rw [h]
      simp only [h'', hd, this, if_false, Bool.false_eq_true, Bool.or_false, Option.map_some, hg]
      simp

/-- What an arriving slot leaves of a LOCKED port, and what it reports (R84, R86, R88, R89). -/
structure Lane.Arrived (x : Lane) (slot : Slot) : Prop where
  taken : (x.arrive slot).taken = true
  badA : (x.arrive slot).badA = (failsParity slot.a || x.port.injection == 1)
  badB : (x.arrive slot).badB = failsParity slot.b
  lock : (x.arrive slot).port.lock = .locked
  inj : (x.arrive slot).port.injection = x.port.injection - 1
  counter : (x.arrive slot).port.counter = x.port.counter
  concealed : (x.arrive slot).port.concealed = x.port.concealed
  wc : (x.arrive slot).port.windowConcealed = x.port.windowConcealed
  wl : (x.arrive slot).port.windowLimit = x.port.windowLimit
  ga : (x.arrive slot).port.goodA = x.port.goodA
  gb : (x.arrive slot).port.goodB = x.port.goodB
  measured : (x.arrive slot).port.measured = x.port.measured
  change : (x.arrive slot).rateChange = true ↔
    (({ x with port := (x.arrive slot).port } : Lane).inUse.rate ≠ x.inUse.rate ∨ ({ x with port := (x.arrive slot).port } : Lane).inUse.channels ≠ x.inUse.channels)
  play : leavesPlay (x.arrive slot).motion = true ↔ x.port.motion = .play ∧ (x.arrive slot).port.motion ≠ .play
  toPlay : reachesPlay (x.arrive slot).motion = true ↔ x.port.motion ≠ .play ∧ (x.arrive slot).port.motion = .play

theorem Lane.arrive_arrived (x : Lane) (slot : Slot) (hk : x.port.lock = .locked) : Lane.Arrived x slot := by
  obtain ⟨profile, port, cue, det, ring, el, queue, item, bl⟩ := x
  obtain ⟨lock, measured, wc, wl, counter, concealed, rejected, injection, ga, gb, assembly, declared, motion⟩ := port
  dsimp only at hk
  subst hk
  have key : ∀ P : Arrival → Prop, (∀ a r, P ⟨⟨.locked, measured, wc, wl, counter, concealed, r, injection - 1, ga, gb, a, declared, motion⟩, true,
        (failsParity slot.a || injection == 1), failsParity slot.b, none, false⟩) →
      (∀ a d m, P ⟨⟨.locked, measured, wc, wl, counter, concealed, rejected, injection - 1, ga, gb, a, some d, m⟩, true,
        (failsParity slot.a || injection == 1), failsParity slot.b, if m = motion then none else some (motion, m),
        profile.source == .auto && (d.rate != (Lane.mk profile ⟨.locked, measured, wc, wl, counter, concealed, rejected, injection, ga, gb, assembly, declared, motion⟩ cue det ring el queue item bl).inUse.rate || d.channels != (Lane.mk profile ⟨.locked, measured, wc, wl, counter, concealed, rejected, injection, ga, gb, assembly, declared, motion⟩ cue det ring el queue item bl).inUse.channels)⟩) →
      P (Lane.arrive (Lane.mk profile ⟨.locked, measured, wc, wl, counter, concealed, rejected, injection, ga, gb, assembly, declared, motion⟩ cue det ring el queue item bl) slot) := by
    intro P h1 h2
    simp only [Lane.arrive, reduceCtorEq, if_false, beq_self_eq_true, Bool.true_and, if_true]
    split
    · exact h2 ..
    · exact h1 ..
    · exact h1 ..
  generalize hX : (Lane.mk profile ⟨.locked, measured, wc, wl, counter, concealed, rejected, injection, ga, gb, assembly, declared, motion⟩ cue det ring el queue item bl) = x at key
  have hport : x.port = ⟨.locked, measured, wc, wl, counter, concealed, rejected, injection, ga, gb, assembly, declared, motion⟩ := by rw [← hX]
  have hprof : x.profile = profile := by rw [← hX]
  constructor
  · exact key (fun a => a.taken = true) (fun _ _ => rfl) fun _ _ _ => rfl
  · simp only [hport]
    exact key (fun a => a.badA = (failsParity slot.a || injection == 1)) (fun _ _ => rfl) fun _ _ _ => rfl
  · exact key (fun a => a.badB = failsParity slot.b) (fun _ _ => rfl) fun _ _ _ => rfl
  · exact key (fun a => a.port.lock = .locked) (fun _ _ => rfl) fun _ _ _ => rfl
  · simp only [hport]
    exact key (fun a => a.port.injection = injection - 1) (fun _ _ => rfl) fun _ _ _ => rfl
  · simp only [hport]
    exact key (fun a => a.port.counter = counter) (fun _ _ => rfl) fun _ _ _ => rfl
  · simp only [hport]
    exact key (fun a => a.port.concealed = concealed) (fun _ _ => rfl) fun _ _ _ => rfl
  · simp only [hport]
    exact key (fun a => a.port.windowConcealed = wc) (fun _ _ => rfl) fun _ _ _ => rfl
  · simp only [hport]
    exact key (fun a => a.port.windowLimit = wl) (fun _ _ => rfl) fun _ _ _ => rfl
  · simp only [hport]
    exact key (fun a => a.port.goodA = ga) (fun _ _ => rfl) fun _ _ _ => rfl
  · simp only [hport]
    exact key (fun a => a.port.goodB = gb) (fun _ _ => rfl) fun _ _ _ => rfl
  · simp only [hport]
    exact key (fun a => a.port.measured = measured) (fun _ _ => rfl) fun _ _ _ => rfl
  · refine key (fun a => a.rateChange = true ↔ (({ x with port := a.port } : Lane).inUse.rate ≠ x.inUse.rate ∨ ({ x with port := a.port } : Lane).inUse.channels ≠ x.inUse.channels)) ?_ ?_
    · intro a r
      have : ({ x with port := ⟨.locked, measured, wc, wl, counter, concealed, r, injection - 1, ga, gb, a, declared, motion⟩ } : Lane).inUse = x.inUse := by
        simp only [Lane.inUse, hport]
      simp [this]
    · intro a d m
      cases hs : profile.source with
      | auto =>
        have : ({ x with port := ⟨.locked, measured, wc, wl, counter, concealed, rejected, injection - 1, ga, gb, a, some d, m⟩ } : Lane).inUse = ⟨d.rate, d.channels, d.deck⟩ := by
          simp only [Lane.inUse, hprof, hs]
        simp [this]
      | fixed =>
        have : ({ x with port := ⟨.locked, measured, wc, wl, counter, concealed, rejected, injection - 1, ga, gb, a, some d, m⟩ } : Lane).inUse = x.inUse := by
          simp only [Lane.inUse, hprof, hs]
        simp [this]
  · refine key (fun a => leavesPlay a.motion = true ↔ x.port.motion = .play ∧ a.port.motion ≠ .play) ?_ ?_
    · intros; simp [leavesPlay, hport]
    · intro a d m
      by_cases h : m = motion <;> simp [leavesPlay, hport, h]
  · refine key (fun a => reachesPlay a.motion = true ↔ x.port.motion ≠ .play ∧ a.port.motion = .play) ?_ ?_
    · intros; simp [reachesPlay, hport]
    · intro a d m
      by_cases h : m = motion <;> simp [reachesPlay, hport, h]
      intro h1 h2; exact h (by rw [h1, h2])

/-! ### The detector -/

/-- A judgement declares exactly the change of state that it makes (R102). -/
theorem Detector.judge_declares (d : Detector) (w : Window) :
    ((d.judge w).2 = some .signal ↔ d.state = .silence ∧ (d.judge w).1.state = .signal) ∧
    (Declaration.isSilence (d.judge w).2 = true ↔ d.state = .signal ∧ (d.judge w).1.state = .silence) := by
  unfold Detector.judge
  cases d.state <;> dsimp only <;> split <;> (try split) <;> simp [Declaration.isSilence]

/-- A frame at the detector declares exactly the change of state that it makes (R101, R102). -/
theorem Detector.frame_declares (d : Detector) (p : Profile) (r : Rate) (c : Channels) (f : Frame) :
    ((d.frame p r c f).2.declared = some .signal ↔ d.state = .silence ∧ (d.frame p r c f).1.state = .signal) ∧
    (Declaration.isSilence (d.frame p r c f).2.declared = true ↔ d.state = .signal ∧ (d.frame p r c f).1.state = .silence) := by
  unfold Detector.frame
  dsimp only
  split
  · exact Detector.judge_declares { d with window := _, runA := _, runB := _ } _
  · simp [Declaration.isSilence]; cases d.state <;> simp

/-- One sample at an overload run (R105). -/
theorem stepRun_steps (w : Window) (counter : FrameCount) (mag : Nat) (run : Option OverloadRun) :
    w.StepsRun counter mag run (stepRun w.clip w.runK counter mag run).1 (stepRun w.clip w.runK counter mag run).2 := by
  obtain ⟨r, hr⟩ : ∃ r, r = run.getD ⟨0, counter, false⟩ := ⟨_, rfl⟩
  unfold Window.StepsRun stepRun
  rw [← hr]
  obtain ⟨count, first, found⟩ := r
  by_cases h : mag < w.clip
  · simp [h]
  · by_cases hk : w.runK ≤ count + 1
    · cases found <;> simp [h, hk]
    · cases found <;> simp [h, hk]

/-- The judgement of a complete window (R101, R102). -/
theorem Detector.judge_eq (d : Detector) (w : Window) :
    let argues := if d.state = .silence then w.high ≤ w.peak else w.peak < w.low
    let needed := if d.state = .silence then w.ng else w.ns
    let start := if d.runCount = 0 then w.first else d.runStart
    (d.judge w).1.window = none ∧ (d.judge w).1.runA = d.runA ∧ (d.judge w).1.runB = d.runB ∧
    (¬argues → (d.judge w).1.state = d.state ∧ (d.judge w).1.runCount = 0 ∧ (d.judge w).2 = none) ∧
    (argues → d.runCount + 1 < needed → (d.judge w).1.state = d.state ∧ (d.judge w).1.runCount = d.runCount + 1 ∧
      (d.judge w).1.runStart = start ∧ (d.judge w).2 = none) ∧
    (argues → needed ≤ d.runCount + 1 → (d.judge w).1.runCount = 0 ∧
      (d.state = .silence → (d.judge w).1.state = .signal ∧ (d.judge w).2 = some .signal) ∧
      (d.state = .signal → (d.judge w).1.state = .silence ∧ (d.judge w).2 = some (.silence start))) := by
  intro argues needed start
  obtain ⟨state, n, first, win, a, b⟩ := d
  cases state with
  | silence =>
    by_cases h : w.high ≤ w.peak
    · by_cases hk : w.ng ≤ n + 1
      · simp [Detector.judge, argues, needed, h, hk]
      · simp [Detector.judge, argues, needed, start, h, hk]
    · simp [Detector.judge, argues, h]
  | signal =>
    by_cases h : w.peak < w.low
    · by_cases hk : w.ns ≤ n + 1
      · simp [Detector.judge, argues, needed, start, h, hk]
      · simp [Detector.judge, argues, needed, start, h, hk]
    · simp [Detector.judge, argues, h]

/-- All that a taken frame makes of a detector (R99 to R106). -/
theorem Detector.frame_takes (d : Detector) (p : Profile) (use : InUse) (f : Frame) :
    d.Takes (d.frame p use.rate use.channels f).1 p use f (d.frame p use.rate use.channels f).2 := by
  let w := d.windowAt p f.counter
  let a := stepRun w.clip w.runK f.counter (magnitude f.a) d.runA
  let b := match use.channels with
    | .one => (none, RunReport.none)
    | .two => stepRun w.clip w.runK f.counter (magnitude f.b) d.runB
  let peak := max w.peak (if use.channels = .two then max (magnitude f.a) (magnitude f.b) else magnitude f.a)
  let v : Window := { w with frames := w.frames + 1, peak := peak }
  let m : Detector := { d with window := some v, runA := a.1, runB := b.1 }
  let j := if windowFrames use.rate ≤ v.frames then m.judge v else (m, none)
  have e : d.frame p use.rate use.channels f = (j.1, ⟨j.2, a.2, b.2, a.1, b.1⟩) := by
    simp only [j, m, v, peak, a, b, w]
    unfold Detector.frame
    cases use.channels <;> rfl
  have runs : j.1.runA = a.1 ∧ j.1.runB = b.1 := by
    simp only [j]
    split
    · exact ⟨(m.judge_eq v).2.1, (m.judge_eq v).2.2.1⟩
    · exact ⟨rfl, rfl⟩
  rw [e]
  refine ⟨?_, runs.1.symm, fun h => ?_, fun h => ?_, runs.2.symm, fun h => ?_, fun h => ?_⟩
  · dsimp only
    rw [runs.1]
    exact stepRun_steps w f.counter _ d.runA
  · dsimp only
    rw [runs.2]
    simp only [b, h]
    exact stepRun_steps w f.counter _ d.runB
  · cases hc : use.channels with
    | one => exact ⟨runs.2.trans (by simp [b, hc]), by simp [b, hc]⟩
    | two => exact absurd hc h
  · have : j = (m, none) := if_neg (Nat.not_le.2 h)
    rw [this]
    exact ⟨rfl, rfl, rfl, rfl, rfl⟩
  · have : j = m.judge v := if_pos h
    rw [this]
    obtain ⟨h1, _, _, h4, h5, h6⟩ := m.judge_eq v
    exact ⟨h1, h4, h5, h6⟩

/-! ### The slot taken -/

/-- The lane after its LOCKED port has taken a slot: measurement restarts when the values in use change (R89). -/
def Lane.afterSlot (x : Lane) (slot : Slot) : Lane :=
  { x.afterTaking slot with port := if (x.arrive slot).rateChange then (x.afterTaking slot).port.measure x.profile else (x.afterTaking slot).port }

/-- The state with the flags that the taking of a slot raises: QUALITY, then LOCK_CHANGE (R83, R85). -/
def State.slotEvents (s : State) (l : LaneId) (slot : Slot) : State :=
  let u := if (s.lane l).passesQuality slot then s.raise (.lane l .quality) else s
  if ((s.lane l).arrive slot).rateChange then u.raise (.lane l .lockChange) else u

/-- All that the taking of a slot does (R84): the lane, both ports and the flags. -/
theorem State.takeSlot_eq (s : State) (l : LaneId) (slot : Slot) (hk : (s.lane l).port.lock = .locked) :
    s.takeSlot l slot = ({ s with
      monA := s.monA.deliver l (s.lane l).inUse.channels ((s.lane l).frameTaken slot)
      monB := s.monB.deliver l (s.lane l).inUse.channels ((s.lane l).frameTaken slot)
      events := (State.slotEvents s l slot).events } : State).setLane l ((s.lane l).afterSlot slot) := by
  have F := Lane.arrive_arrived (s.lane l) slot hk
  have hlock : ((s.lane l).afterTaking slot).port.lock = .locked := F.lock
  unfold State.takeSlot
  dsimp only
  have base : (if (s.lane l).passesQuality slot then (s.setLane l ((s.lane l).afterTaking slot)).raise (.lane l .quality) else s.setLane l ((s.lane l).afterTaking slot))
      = (if (s.lane l).passesQuality slot then s.raise (.lane l .quality) else s).setLane l ((s.lane l).afterTaking slot) := by
    split <;> rfl
  rw [base]
  by_cases hc : ((s.lane l).arrive slot).rateChange = true
  · simp only [hc, if_true, State.slotEvents, Lane.afterSlot]
    have h2 : ((State.deliverLive ((if (s.lane l).passesQuality slot then s.raise (.lane l .quality) else s).setLane l ((s.lane l).afterTaking slot)) l
        (s.lane l).inUse.channels ((s.lane l).frameTaken slot)).lane l) = (s.lane l).afterTaking slot := by
      exact State.lane_setLane _ _ _
    unfold State.restartMeasurement
    rw [h2, hlock]
    dsimp only
    unfold State.mapLane
    rw [h2]
    split
    all_goals
      simp only [State.setLane, State.raise, State.deliverLive, State.linkUp, Vector.set_set]
      rfl
  · simp only [hc, Bool.false_eq_true, if_false, State.slotEvents, Lane.afterSlot]
    split <;> rfl

/-- Nothing opens before a frame on a lane that is not ARMED with an IMMEDIATE head. -/
theorem State.openBefore_of_not (n : Nat) (s : State) (l : LaneId) (slot : Slot) (h : (s.lane l).opensBefore = false) :
    State.openBefore n s l slot = s := by
  cases n with
  | zero => rfl
  | succ n => simp [State.openBefore, h]

/-- The values in use after a slot are those that its status word leaves (R88). -/
theorem Lane.inUse_afterSlot (x : Lane) (slot : Slot) :
    (x.afterSlot slot).inUse = ({ x with port := (x.arrive slot).port } : Lane).inUse := by
  have hd : (x.afterSlot slot).port.declared = (x.arrive slot).port.declared := by
    unfold Lane.afterSlot; dsimp only; split <;> rfl
  unfold Lane.inUse
  rw [hd]
  rfl

/-- Where no open item and no head uses the frame, a slot that arrives is a slot taken. -/
theorem State.slotArrives_idle (s : State) (l : LaneId) (slot : Slot) (hk : (s.lane l).port.lock = .locked)
    (hid : (s.lane l).profile.enabled = false ∨ ((s.lane l).item = none ∧ (s.lane l).queue = [])) :
    s.slotArrives l slot = s.takeSlot l slot := by
  have F := Lane.arrive_arrived (s.lane l) slot hk
  unfold State.slotArrives
  simp only [F.taken, if_true]
  rw [State.openBefore_of_not _ _ _ _ (by rcases hid with h | ⟨h, h'⟩ <;> simp [Lane.opensBefore, h] ; simp [h'])]
  have hl : (s.takeSlot l slot).lane l = (s.lane l).afterSlot slot := by rw [State.takeSlot_eq s l slot hk]; simp
  unfold State.engineFrame
  rw [hl]
  have hp : ((s.lane l).afterSlot slot).profile = (s.lane l).profile := rfl
  have hi : ((s.lane l).afterSlot slot).item = (s.lane l).item := rfl
  have hq : ((s.lane l).afterSlot slot).queue = (s.lane l).queue := rfl
  rw [hp, hi, hq]
  rcases hid with h | ⟨h, h'⟩
  · simp [h]
  · simp [h, h']

/-- Taking a slot reads neither the open slot nor the queue of the lane. -/
theorem State.takeSlot_with (s : State) (l : LaneId) (slot : Slot) (hk : (s.lane l).port.lock = .locked) (i : Option OpenItem) (q : List Queued) :
    (s.setLane l { s.lane l with item := i, queue := q }).takeSlot l slot =
      (s.takeSlot l slot).setLane l { (s.takeSlot l slot).lane l with item := i, queue := q } := by
  rw [State.takeSlot_eq s l slot hk, State.takeSlot_eq (s.setLane l { s.lane l with item := i, queue := q }) l slot (by simpa using hk)]
  simp only [State.lane_setLane, State.setLane_setLane]
  have : Lane.afterSlot { s.lane l with item := i, queue := q } slot = { (s.lane l).afterSlot slot with item := i, queue := q } := rfl
  rw [this]
  simp only [State.setLane, Vector.set_set]
  have e : State.slotEvents { s with lanes := s.lanes.set l.val { s.lane l with item := i, queue := q } } l slot = 
     { State.slotEvents s l slot with lanes := s.lanes.set l.val { s.lane l with item := i, queue := q } } := by
    have hl : ({ s with lanes := s.lanes.set l.val { s.lane l with item := i, queue := q } } : State).lane l = { s.lane l with item := i, queue := q } := State.lane_setLane s l _
    unfold State.slotEvents
    rw [hl]
    have h1 : ({ s.lane l with item := i, queue := q } : Lane).passesQuality slot = (s.lane l).passesQuality slot := rfl
    have h2 : ({ s.lane l with item := i, queue := q } : Lane).arrive slot = (s.lane l).arrive slot := rfl
    rw [h1, h2]
    split <;> split <;> rfl
  rw [e]
  rfl

/-! ### What the cutting engine leaves of the lane -/

/-- From `s` to `t`, of lane `l` nothing has moved but what the cutting engine owns: the queue, the open slot, the eligibility start and the baseline. -/
def State.EngineAlone (s t : State) (l : LaneId) : Prop :=
  ∃ q i e b, t.lane l = { s.lane l with queue := q, item := i, eligible := e, baseline := b }

theorem State.EngineAlone.refl (s : State) (l : LaneId) : s.EngineAlone s l := ⟨_, _, _, _, rfl⟩

theorem State.EngineAlone.trans {s t u : State} {l : LaneId} (h : s.EngineAlone t l) (k : t.EngineAlone u l) : s.EngineAlone u l := by
  obtain ⟨q, i, e, b, h⟩ := h
  obtain ⟨q', i', e', b', k⟩ := k
  exact ⟨q', i', e', b', by rw [k, h]⟩

theorem State.mapItem_engineAlone (s : State) (l : LaneId) (f : OpenItem → OpenItem) : s.EngineAlone (s.mapItem l f) l :=
  ⟨_, _, _, _, State.lane_mapItem s l f⟩

theorem State.closeItem_engineAlone (s : State) (l : LaneId) (reason : CloseReason) : s.EngineAlone (s.closeItem l reason) l := by
  cases ho : (s.lane l).item with
  | none =>
    have : s.closeItem l reason = s := by unfold State.closeItem; rw [ho]
    rw [this]; exact .refl s l
  | some o => exact ⟨_, _, _, _, (s.closeItem_itemCloses l reason ho).1⟩

theorem State.HeadStarts.engineAlone {s t : State} {l : LaneId} {q : Queued} {frames : List Frame} (h : s.HeadStarts t l q frames) :
    s.EngineAlone t l := by
  have opens : ∀ u, s.ItemOpensWith u l q frames → s.EngineAlone u l := by
    rintro u ⟨_, v, p, hp, hu⟩
    exact ⟨_, _, _, _, by rw [hu, State.lane_raise, State.lane_setLane, (hp.keeps (by simp)).2.1, State.lane_setLane]⟩
  by_cases hr : q.ends.length = true ∧ q.target ≤ (s.lane l).prerollTime frames.length
  · obtain ⟨u, p, hu, _, hc⟩ := h.2 hr
    exact (opens u hu).trans ⟨_, _, _, _, hc.1⟩
  · exact opens t (h.1 hr)

theorem State.openHead_engineAlone (s : State) (l : LaneId) (cs : List Frame) (hi : (s.lane l).item = none) :
    s.EngineAlone (s.openHead l (s.lane l).port.counter cs (s.lane l).inUse) l := by
  cases hq : (s.lane l).queue with
  | nil =>
    have : s.openHead l (s.lane l).port.counter cs (s.lane l).inUse = s := by unfold State.openHead; dsimp only; rw [hq]
    rw [this]; exact .refl s l
  | cons q rest => exact (s.openHead_starts l cs hq hi).engineAlone

theorem State.openBefore_engineAlone (n : Nat) (s : State) (l : LaneId) (slot : Slot) : s.EngineAlone (State.openBefore n s l slot) l := by
  induction n generalizing s with
  | zero => exact .refl s l
  | succ n ih =>
    unfold State.openBefore
    dsimp only
    split
    · rename_i h
      refine (s.openHead_engineAlone l _ ?_).trans (ih _)
      simp only [Lane.opensBefore, Bool.and_eq_true, Option.isNone_iff_eq_none] at h
      exact h.1.2
    · exact .refl s l

theorem State.engineFrame_engineAlone (s : State) (l : LaneId) (rep : FrameReport) : s.EngineAlone (s.engineFrame l rep) l := by
  unfold State.engineFrame
  split
  · exact .refl s l
  · split
    · rename_i o hi
      unfold State.itemFrame
      dsimp only
      have h1 := s.mapItem_engineAlone l OpenItem.takeSpeed
      have h2 : (s.mapItem l OpenItem.takeSpeed).EngineAlone ((s.mapItem l OpenItem.takeSpeed).passFrame l rep.frame) l := by
        obtain ⟨p, hp⟩ := (s.mapItem l OpenItem.takeSpeed).passFrame_takes l rep.frame (o := o.takeSpeed) (by simp [hi])
        exact ⟨_, _, _, _, hp.lane⟩
      have h3 := (h1.trans h2).trans (State.mapItem_engineAlone _ l fun o => o.finishFrame rep)
      split
      · split
        · exact h3.trans (State.closeItem_engineAlone _ _ _)
        · exact h3
      · exact h3
    · rename_i hi _
      split
      · exact s.openHead_engineAlone l _ hi
      · exact .refl s l
    · exact .refl s l

/-- The detector after a slot that a LOCKED port takes is the one after its frame, whatever the cutting engine does with it (R84, R106). -/
theorem State.slotArrives_detector (s : State) (l : LaneId) (slot : Slot) (hk : (s.lane l).port.lock = .locked) :
    ((s.slotArrives l slot).lane l).detector =
      ((s.lane l).detector.frame (s.lane l).profile (s.lane l).inUse.rate (s.lane l).inUse.channels ((s.lane l).frameTaken slot)).1 := by
  unfold State.slotArrives
  simp only [((s.lane l).arrive_arrived slot hk).taken, if_true]
  obtain ⟨q, i, e, b, h⟩ := State.openBefore_engineAlone (s.lane l).queue.length s l slot
  obtain ⟨q', i', e', b', h'⟩ := State.engineFrame_engineAlone ((State.openBefore (s.lane l).queue.length s l slot).takeSlot l slot) l ((s.lane l).reportOf slot)
  rw [h', State.takeSlot_eq _ l slot (by rw [h]; exact hk), State.lane_setLane, h]
  rfl

/-- An arriving frame at the units (R80). -/
theorem exec_arrivingFrame (s : State) (l : LaneId) (slot : Slot) (ha : s.awake = true) :
    exec (.arrivingFrame l slot) s = .next (s.slotArrives l slot) := by
  rw [show exec (.arrivingFrame l slot) s = running s fun s => s.slotArrives l slot from rfl, running_of_awake ha]

end Sys2Proof.Machine
end

