-- ==== Sys2Proof/Tests/Slice0.lean ====
section
/-! SUPPORT. The model's own tests: the smoke tests of WellFormed, small examples of the spec, and for every statement with premises a
state and operands that meet them, at the ends of their ranges. -/

namespace Sys2Proof.Tests

open Sys2Proof Sys2Proof.Machine

/-! ### States the tests begin from -/

/-- The state after a command, or the part after power-on where it stops. -/
def after (c : Instr) (s : State) : State :=
  match exec c s with
  | .next t => t
  | _ => State.reset

/-- The state with one command in the command queue, under tag 7. -/
def asked (code : Byte) (params : List Byte) (s : State := State.reset) : State := { s with cmd := ⟨[], [⟨7, code, params⟩], .idle⟩ }

/-- The status and the result of the last reply built. -/
def answer (s : State) : Option (Status × List Byte) := s.cmd.done.getLast?.map fun r => (r.status, r.result)

/-- The part with lane 0 changed. -/
def lane0 (f : Lane → Lane) : State := State.reset.setLane 0 (f (Lane.afterReset false none))

/-- A queueing part that takes record 0, with no end condition and no pre-roll. -/
def queued (item : Item) : Queued := ⟨0, item, .command, ⟨false, false, false, false⟩, 0, 0, []⟩

/-- A recording part as an opening without pre-roll leaves it, at 48,000 Hz in two channels. -/
def opened : Recording :=
  ⟨0, 1, .two, 0, 0, 0, [⟨0, ⟨1, 1⟩, 0⟩], [], 0, 0, 0, 0, 0, 0, 0, crc32Start, ⟨false, false, false, false, false⟩⟩

/-- An open item without a buffer. -/
def openItem (item : Item) : OpenItem := ⟨queued item, opened, 1024, none, 0, none, none, false, ⟨none, none, none, none⟩⟩

/-- An enabled lane whose port is LOCKED. -/
def lockedLane (x : Lane) : Lane :=
  { x with profile := { x.profile with enabled := true }, port := { x.port with lock := .locked } }

/-- A lane that is ARMED with item 5 at its head. -/
def armed : State := lane0 fun x => { lockedLane x with queue := [queued 5] }

/-- A lane that is RECORDING item 5 in record 0, the other records free. -/
def recording : State :=
  { lane0 (fun x => { lockedLane x with item := some (openItem 5) }) with table := ⟨(List.range 96).drop 1, []⟩ }

/-- Item 5 closed, in record 0. -/
def closedItem : State := { State.reset with table := ⟨(List.range 96).drop 1, [⟨queued 5, 0, opened, .command⟩]⟩ }

/-- The link UP. -/
def linked : State := { State.reset with rx := ⟨.up, true, 64, 0, none⟩, tx := { Transmitter.reset with beenUp := true } }

/-- A route that waits for item 9, to be verified. -/
def waitingRoute : Route := ⟨9, .verify, none, 100, .waiting, 0, crc32Start, 0, 0, 0, 0, 0, 0, 0, none, none, none⟩

/-- A RECALL packet of one one-channel frame for item 9, the first and not the last. -/
def recalled : RecallPacket := ⟨9, 0, 0, 1, 1, 1, 1, 0, [0, 0, 1], none⟩

/-- A slot of zero samples whose words pass parity, with these aux bits. -/
def slotOf (auxA auxB : Bool) : Slot := ⟨if auxA then 3 else 0, if auxB then 3 else 0⟩

/-! ### WellFormed refuses what the outside cannot send -/

theorem test_wf_command_too_long : (Instr.commandPacket 0 0 (List.replicate 48 0)).wf = false := by decide
theorem test_wf_command_longest : (Instr.commandPacket 0 0 (List.replicate 47 0)).wf = true := by decide
theorem test_wf_recall : (Instr.recallPacket recalled).wf = true := by decide
theorem test_wf_recall_payload : (Instr.recallPacket { recalled with payload := [0, 0] }).wf = false := by decide
theorem test_wf_recall_no_trailer : (Instr.recallPacket { recalled with flags := 3 }).wf = false := by decide
theorem test_wf_recall_stray_trailer :
    (Instr.recallPacket { recalled with trailer := some ⟨0, 0, 0, 0, 0, 1, 0, 1⟩ }).wf = false := by decide
theorem test_wf_window_one_edge : (Instr.rateWindowEnd 0 1 1 0).wf = false := by decide
theorem test_wf_window_no_span : (Instr.rateWindowEnd 0 2 0 0).wf = false := by decide
theorem test_wf_window_too_wide : (Instr.rateWindowEnd 0 2 6144001 0).wf = false := by decide
theorem test_wf_relock_too_late : (Instr.rateWindowEnd 0 2 1 5001).wf = false := by decide

/-! ### Arithmetic of the spec -/

set_option maxRecDepth 20000 in
/-- The check sequence of "123456789" under the parameters of R122: FC891918 (the published check value of that CRC-32). -/
theorem test_digest : digestOf (crc32 crc32Start [49, 50, 51, 52, 53, 54, 55, 56, 57]) = 0xFC891918#32 := by decide
set_option maxRecDepth 20000 in
/-- The check sequence of "123456789" under the parameters of R123: 29B1. -/
theorem test_packet_check : packetCheck [49, 50, 51, 52, 53, 54, 55, 56, 57] = 0x29B1#16 := by decide
/-- A digest over no bytes is 0 (R122). -/
theorem test_digest_empty : digestOf crc32Start = 0#32 := by decide
/-- Three frames at 48,000 Hz and 1/1 are 62.5 microseconds, and the half rounds up (R55). -/
theorem test_half_rounds_up : segmentTime 48000 ⟨1, 1⟩ 3 = 63 := by decide
/-- At 48,000 Hz and a tolerance of 5 a window of 47,760 Hz passes, and a slower one fails (R82). -/
theorem test_tolerance_edge : rateWithin 1 5 11941 6144000 = true ∧ rateWithin 1 5 11940 6144000 = false := by decide
/-- The most negative sample has the magnitude 8,388,608 (R99). -/
theorem test_magnitude : magnitude 0x800000#24 = 8388608 := by decide
/-- A word of one 1 fails parity, a word of two passes (R80). -/
theorem test_parity : failsParity 1#26 = true ∧ failsParity 3#26 = false := by decide

/-! ### One step of each kind -/

set_option maxRecDepth 40000

/-- PROBE answers the codes, the pattern and the capacities (R169, R177). -/
theorem test_probe : answer (after .probe (asked 0x01 [])) =
    some (.ok, [0x57, 0x41, 0x84, 0x20, 1, 0x5A, 0x0F, 0x3C, 0x96, 8, 96, 192, 16, 2]) := by decide
/-- A command with a wrong number of parameters (R162). -/
theorem test_probe_parameter : answer (after .probe (asked 0x01 [0])) = some (.badParam, []) := by decide
/-- A code of no command (R162). -/
theorem test_unknown_code : answer (after .unknownCommandCode (asked 0x04 [])) = some (.unknownCommand, []) := by decide
/-- The row of one command does nothing to another (log 2). -/
theorem test_other_row : after .laneGet (asked 0x01 []) = asked 0x01 [] := by decide
/-- LINK_STATS returns a counter and clears it (R170). -/
theorem test_link_stats :
    let t := after .linkStats (asked 0x03 [] { State.reset with tx := { Transmitter.reset with stats := ⟨0, 0, 0, 0, 0, 0, 0, 5, 0⟩ } })
    t.tx.stats = LinkStats.zero ∧ (answer t).map (fun a => (a.2.drop 28).take 4) = some [0, 0, 0, 5] := by decide
/-- EVENT_READ returns the LINK_STALL flag and clears it when selected (R166, R176). -/
theorem test_event_read :
    let t := after .eventRead (asked 0x10 [0, 0, 0, 0, 0, 0, 0, 0, 1, 0, 0] (State.reset.raise (.device .linkStall)))
    t.events.device = 0 ∧ answer t = some (.ok, [0, 0, 0, 0, 0, 0, 0, 0, 1, 0, 0]) := by decide
/-- EVENT_MASK returns the mask and the hold limit it replaces: every kind enabled and 0 after power-on (R167, R172). -/
theorem test_event_mask : answer (after .eventMask (asked 0x11 [0, 0, 0, 10])) = some (.ok, [1, 255, 0, 0]) := by decide
/-- EVENT_FORCE makes a notice with item number 0 in UP (R168). -/
theorem test_event_force : (after .eventForce (asked 0x12 [0, 0, 0, 0, 0, 0, 0, 0, 4, 0, 0] linked)).events.notices =
    [.event (.device .recallUnrouted) 0] := by decide
/-- DEVICE_RESET outside UP is due at once (R171). -/
theorem test_device_reset : (after .deviceReset (asked 0x02 [])).cmd.reset = .due := by decide
/-- The next event finds the part reset (R171). -/
theorem test_device_reset_effect : (after .deviceResetEffect (after .deviceReset (asked 0x02 []))).events.cause = .deviceReset := by decide
/-- LANE_GET after power-on: the defaults of R92 in its order. -/
theorem test_lane_get : answer (after .laneGet (asked 0x21 [7])) = some (.ok, [0, 0, 1, 2, 0, 0, 4, 0, 8, 16, 0, 5, 0, 32, 197, 0, 65, 137,
    1, 44, 3, 127, 255, 255, 4, 0, 20, 1, 244, 0, 10, 0, 1, 0, 1]) := by decide
/-- LANE_SET clamps a quota of 1 to 2 and a tolerance of 21 to 20 (R92, R94). -/
theorem test_lane_set_clamps :
    let t := after .laneSet (asked 0x20 [0, 0, 1, 0, 1, 2, 0, 0, 1, 0, 1, 0, 0, 21, 0, 0, 0, 0, 0, 0, 0, 0, 0, 0, 0, 0, 0, 0, 0, 0, 0, 0, 0, 0, 1, 0, 1]);
    (t.lane 0).profile.quota = 2 ∧ (t.lane 0).profile.tolerance = 20 ∧ (t.lane 0).profile.blockSize = .b256 := by decide
/-- LANE_STATUS clears the rejected words it returns (R96). -/
theorem test_lane_status : ((after .laneStatus (asked 0x22 [0] (lane0 fun x => { x with port := { x.port with rejected := 9 } }))).lane 0).port.rejected
    = 0 := by decide
/-- LANE_RESET closes the open item (R48, R52). -/
theorem test_lane_reset : ((after .laneReset (asked 0x23 [0] recording)).table.closed.map ClosedRecord.reason) = [.laneReset] := by decide
/-- SPEED_SET of an OFF lane (R61). -/
theorem test_speed_set_off : answer (after .speedSet (asked 0x24 [0, 0, 1, 0, 1])) = some (.laneOff, []) := by decide
/-- SPEED_SET of 2/1 is pending in the open item (R62). -/
theorem test_speed_set : (((after .speedSet (asked 0x24 [0, 0, 2, 0, 1] recording)).lane 0).item.map OpenItem.pendingSpeed) = some (some ⟨2, 1⟩) := by decide
/-- INJECT beyond 256 (R86). -/
theorem test_inject : answer (after .inject (asked 0x25 [0, 1, 1])) = some (.badParam, []) := by decide
/-- ITEM_QUEUE takes a free record to position 0 of the lane's queue (R13, R14). -/
theorem test_item_queue :
    let t := after .itemQueue (asked 0x30 [0, 0, 0, 0, 5, 0, 0, 0, 0, 0, 0, 0, 0, 0, 0] (lane0 lockedLane))
    answer t = some (.ok, [0]) ∧ (t.lane 0).queue.map Queued.item = [5] ∧ t.table.pool.length = 95 := by decide
/-- ITEM_WITHDRAW answers the lane and the position (R15). -/
theorem test_item_withdraw : answer (after .itemWithdraw (asked 0x31 [0, 0, 0, 5] armed)) = some (.ok, [0, 0]) := by decide
/-- ITEM_START opens the head of an ARMED lane (R29). -/
theorem test_item_start : ((after .itemStart (asked 0x32 [0, 0, 0, 5] armed)).lane 0).item.map (fun o => o.queued.item) = some 5 := by decide
/-- ITEM_END of an item of no frame answers two zero lengths (R47). -/
theorem test_item_end : answer (after .itemEnd (asked 0x33 [0, 0, 0, 5] recording)) = some (.ok, [0, 0, 0, 0, 0, 0, 0, 0, 0, 0, 0]) := by decide
/-- ITEM_ABANDON sets the flag (R39). -/
theorem test_item_abandon : ((after .itemAbandon (asked 0x34 [0, 0, 0, 5] recording)).table.closed.map fun c => c.record.flags.abandoned) = [true] := by
  decide
/-- ITEM_MARK with code 7 (R75). -/
theorem test_item_mark : (((after .itemMark (asked 0x35 [0, 0, 0, 5, 0, 0, 0, 7] recording)).lane 0).item.map fun o => o.record.marks.map Mark.extent) =
    some [7] := by decide
/-- ITEM_READ of an item that the table does not hold (R18). -/
theorem test_item_read : answer (after .itemRead (asked 0x36 [0, 0, 0, 1])) = some (.unknownItem, []) := by decide
/-- ITEM_RELEASE frees the record (R17). -/
theorem test_item_release : (after .itemRelease (asked 0x37 [0, 0, 0, 5] closedItem)).table.pool.length = 96 := by decide
/-- TABLE_STATUS ends with the closed count, the closed items and the free count (R19, R20). -/
theorem test_table_status : (answer (after .tableStatus (asked 0x38 [] closedItem))).map (fun a => a.2.drop 56) = some [1, 0, 0, 0, 5, 0, 1, 95] := by
  decide
/-- ROUTE_SET takes the lowest free route (R133). -/
theorem test_route_set : answer (after .routeSet (asked 0x40 [0, 0, 0, 9, 2, 0, 0, 0, 0, 0, 0, 0] (State.reset.setRoute 0 (some { waitingRoute with item := 8 })))) =
    some (.ok, [1]) := by decide
/-- ROUTE_CLEAR of a FREE route (R134). -/
theorem test_route_clear : answer (after .routeClear (asked 0x41 [0])) = some (.unknownRoute, []) := by decide
/-- ROUTE_READ of a FREE route is not refused (R135). -/
theorem test_route_read : answer (after .routeRead (asked 0x42 [15])) = some (.ok, [15, 0]) := by decide
/-- MONITOR_SELECT answers the source replaced and the frames discarded (R149). -/
theorem test_monitor_select : answer (after .monitorSelect (asked 0x50 [0, 1, 3])) = some (.ok, [0, 0, 0, 0]) := by decide
/-- MONITOR_STATUS of a port that is none (R155). -/
theorem test_monitor_status : answer (after .monitorStatus (asked 0x51 [2])) = some (.badParam, []) := by decide
/-- A reset of the part keeps no item (R21). -/
theorem test_power_on : (after .powerOn recording).table.pool.length = 96 := by decide
/-- The cause of a release of the RESET line (R160). -/
theorem test_reset_line : (after .resetLineRelease (after .resetLineAssert State.reset)).events.cause = .resetLine := by decide
/-- A taken frame moves the counter (R84). -/
theorem test_frame : ((after (.arrivingFrame 0 (slotOf false false)) (lane0 lockedLane)).lane 0).port.counter = 1 := by decide
/-- An edge in NO_CLOCK begins a measurement (R81). -/
theorem test_first_edge : ((after (.arrivingFrame 0 (slotOf false false)) State.reset).lane 0).port.lock = .measuring := by decide
/-- The frame INJECT names is concealed though its parity is good (R86). -/
theorem test_injection :
    ((after (.injectionCountdownEnd 0 (slotOf false false)) (lane0 fun x => { lockedLane x with port := { (lockedLane x).port with injection := 1 } })).lane
      0).port.concealed = 1 := by decide
/-- A window of 12,000 edges in 250 ms is 48,000 Hz less 4, and locks (R81, R82). -/
theorem test_rate_window :
    let t := after (.rateWindowEnd 0 12000 6144000 0) (lane0 fun x => { x with port := { x.port with lock := .measuring } });
    (t.lane 0).port.lock = .locked ∧ (t.lane 0).port.measured = 16 * 47996 ∧ t.events.isSet (.lane 0 .lockChange) = true := by decide
/-- The loss of the clock with a grace of 500 ms begins a dropout (R41). -/
theorem test_clock_loss : ((after (.clockLoss 0) recording).lane 0).item.map OpenItem.dropout = some (some ⟨500, 0⟩) := by decide
/-- The end of the grace closes the item (R43). -/
theorem test_dropout_expiry : (after (.dropoutExpiry 0) (after (.clockLoss 0) recording)).table.closed.map ClosedRecord.reason = [.lockLost] := by decide
/-- A cue line that goes low is active after its debounce (R90). -/
theorem test_cue : ((after (.cueDebounceEnd 0) (after (.cueLineChange 0 true) State.reset)).lane 0).cue = ⟨true, true, none⟩ := by decide
/-- The received signal brings ALIGNING and its loss DOWN (R157). -/
theorem test_signal : (after .linkSignalAppear State.reset).rx.state = .aligning ∧
    (after .linkSignalLost (after .linkSignalAppear State.reset)).rx.state = .down := by decide
/-- The 64th idle word brings UP with a STATUS notice (R157, R158). -/
theorem test_alignment :
    let t := after (.linkWord 0x23C) { State.reset with rx := ⟨.aligning, true, 63, 0, none⟩ }
    t.rx.state = .up ∧ t.events.notices = [.status] ∧ t.tx.paceReady = true := by decide
/-- A fifth command is dropped (R161). -/
theorem test_command_dropped :
    let t := after (.commandPacket 1 1 []) { linked with cmd := ⟨[], List.replicate 4 ⟨0, 1, []⟩, .idle⟩ }
    t.cmd.waiting.length = 4 ∧ t.events.isSet (.device .commandDropped) = true := by decide
/-- A RECALL for no route raises RECALL_UNROUTED with its item (R136). -/
theorem test_recall_unrouted : (after (.recallPacket recalled) linked).events.notices = [.event (.device .recallUnrouted) 9] := by decide
/-- A RECALL for a WAITING route is accepted (R141). -/
theorem test_recall : ((after (.recallPacket recalled) (linked.setRoute 3 (some waitingRoute))).route 3).map (fun t => (t.state, t.frames)) =
    some (.receiving, 1) := by decide
/-- A RECEIVING route that hears nothing for its idle limit (R145). -/
theorem test_idle_limit : ((after (.routeIdleTimeout 3) (linked.setRoute 3 (some { waitingRoute with state := .receiving }))).route 3).map Route.cause =
    some (some .timeout) := by decide
/-- A GATE with bit 0 clear is HOLD, and begins a hold (R125, R126). -/
theorem test_gate : (after (.gatePacket 0xFE) linked).tx.hold = some ⟨0, false⟩ := by decide
/-- A malformed packet is counted (R159). -/
theorem test_malformed : (after (.malformedPacket .badCheck) linked).tx.stats.malformed = 1 := by decide
/-- The millisecond that reaches the hold limit is followed by LINK_STALL at once (R126). -/
theorem test_hold_limit :
    (after .holdLimitReached (after .holdMillisecond { linked with tx := { linked.tx with gate := .hold, hold := some ⟨9, false⟩, holdLimit := 10 } })).events.device
      = 1 := by decide
/-- A PACE goes before a NOTICE (R127). -/
theorem test_transmit : ((after .transmitStart { linked with
    tx := { linked.tx with paceReady := true }, events := { linked.events with notices := [.status] } }).tx.inFlight.map InFlight.packet) = some .pace := by decide
/-- The STATUS notice, once sent, leaves the reset cause NONE (R160). -/
theorem test_status_sent : (after .packetSent { linked with tx := { linked.tx with inFlight := some ⟨.notice .status, []⟩ } }).events.cause = .none := by decide
/-- A SILENT port puts out zeros (R148). -/
theorem test_output : (after (.monitorOutputFrame .a) State.reset).monA.out = ⟨0, 0⟩ := by decide

/-! ### Witnesses: states and operands that meet the premises of the statements -/

theorem witness_StepRunsFront : ({ State.reset with pending := [.probe] } : State).pending = .probe :: [] ∧ State.reset.pending = [] := by decide

theorem witness_ResetLineHolds_WholeResets : ({ State.reset with resetLow := true } : State).resetLow = true ∧ State.reset.resetLow = false := by decide

theorem witness_EarlyTests :
    (asked 0x04 []).ready ⟨7, 0x04, []⟩ = true ∧ (asked 0x52 []).ready ⟨7, 0x52, []⟩ = true ∧
      (.eventRead, 0x10, 11) ∈ commandTable ∧ (asked 0x10 []).ready ⟨7, 0x10, []⟩ = true ∧
      (asked 0x30 (List.replicate 14 0)).ready ⟨7, 0x30, List.replicate 14 0⟩ = true ∧
      (asked 0x30 (List.replicate 16 0)).ready ⟨7, 0x30, List.replicate 16 0⟩ = true ∧ field (List.replicate 16 0) 14 1 = 0 ∧
      (.laneGet, 0x21, 1) ∈ commandTable ∧ (asked 0x21 [8]).ready ⟨7, 0x21, [8]⟩ = true ∧ field [8] 0 1 = 8 ∧
      (asked 0x30 (8 :: List.replicate 14 0)).ready ⟨7, 0x30, 8 :: List.replicate 14 0⟩ = true := by decide

theorem witness_EveryCommandReplies_ProbeAnswers_LinkStatsRead :
    (.probe, 0x01) ∈ commandTable.map (fun row => (row.1, row.2.1)) ∧ (asked 0x01 []).ready ⟨7, 0x01, []⟩ = true ∧
      (asked 0x01 [0]).ready ⟨7, 0x01, [0]⟩ = true ∧ (asked 0x30 []).ready ⟨7, 0x30, []⟩ = true ∧
      (asked 0x03 []).ready ⟨7, 0x03, []⟩ = true := by decide

/-- Selections at the ends of their ranges: no flag, every flag, a lane bit of no event, a device bit of no event. -/
theorem witness_EventReadClears_EventForceRaises :
    let all : List Byte := [31, 31, 31, 31, 31, 31, 31, 31, 7, 255, 255];
    ((asked 0x10 all).ready ⟨7, 0x10, all⟩ = true ∧ (asked 0x12 all).ready ⟨7, 0x12, all⟩ = true ∧ all.length = 11) ∧ selectionValid all ∧
      selectionValid (List.replicate 11 0) ∧ ¬selectionValid [0, 0, 0, 0, 0, 0, 0, 32, 0, 0, 0] ∧
      ¬selectionValid [0, 0, 0, 0, 0, 0, 0, 0, 8, 0, 0] := by
  refine ⟨by decide, ?_, ?_, ?_, ?_⟩ <;> unfold selectionValid <;> decide

/-- Hold limits 0, 10 and 60,000 with the whole mask are accepted; 9, 60,001 and a tenth mask bit are not; and a hold stands at its limit. -/
theorem witness_EventMaskWrites :
    (asked 0x11 [1, 255, 0, 10] { State.reset with tx := { Transmitter.reset with hold := some ⟨10, false⟩ } }).ready ⟨7, 0x11, [1, 255, 0, 10]⟩ = true ∧
      field [1, 255, 0, 10] 0 2 = 511 ∧ field [1, 255, 0, 10] 2 2 = 10 ∧ field [1, 255, 0, 0] 2 2 = 0 ∧ field [1, 255, 234, 96] 2 2 = 60000 ∧
      field [1, 255, 0, 9] 2 2 = 9 ∧ field [1, 255, 234, 97] 2 2 = 60001 ∧ field [2, 0, 0, 10] 0 2 = 512 := by decide

theorem witness_DeviceResetCommand_DeviceResetEffect :
    (asked 0x02 []).ready ⟨7, 0x02, []⟩ = true ∧ ({ linked with cmd := ⟨[], [], .replyAwaited⟩ } : State).awake = true ∧
      ({ linked with cmd := ⟨[], [], .due⟩ } : State).resetLow = false ∧ State.reset.cmd.reset ≠ .due := by decide

/-! The lane commands -/

/-- LANE_SET's parameters for lane 0: a selector, an enable setting and a ratio, the other fields within their codes. -/
def laneSetBytes (selector enable p q : Byte) : List Byte :=
  [0, selector, enable, 0, 1, 2, 0, 0, 1, 0, 8, 0, 0, 5, 0, 0, 0, 0, 0, 0, 0, 1, 1, 0, 0, 1, 1, 0, 1, 0, 0, 0, 1, 0, p, 0, q]

theorem witness_LaneSetRefused :
    ((asked 0x20 (laneSetBytes 3 1 1 1)).ready ⟨7, 0x20, laneSetBytes 3 1 1 1⟩ = true ∧ (laneSetBytes 3 1 1 1).length = 37 ∧
      field (laneSetBytes 3 1 1 1) 0 1 = 0 ∧ ((State.reset.lane 0).item = none ∧ (State.reset.lane 0).queue = [])) ∧
      ¬laneSetFields (laneSetBytes 3 1 1 1) ∧ laneSetFields (laneSetBytes 2 1 1 1) ∧ laneSetFields (laneSetBytes 0 0 1 1) ∧
      laneSetFields (laneSetBytes 0 1 1 5) ∧
      ((asked 0x20 (laneSetBytes 2 1 1 1) recording).ready ⟨7, 0x20, laneSetBytes 2 1 1 1⟩ = true ∧ (recording.lane 0).item.isSome = true ∧
      (asked 0x20 (laneSetBytes 0 0 1 1) armed).ready ⟨7, 0x20, laneSetBytes 0 0 1 1⟩ = true ∧ (armed.lane 0).profile.enabled = true ∧
      field (laneSetBytes 0 0 1 1) 2 1 = 0 ∧ (armed.lane 0).queue ≠ [] ∧
      (asked 0x20 (laneSetBytes 0 1 1 5)).ready ⟨7, 0x20, laneSetBytes 0 1 1 5⟩ = true ∧ field (laneSetBytes 0 1 1 5) 35 2 = 5) := by
  refine ⟨by decide, ?_, ?_, ?_, ?_, by decide⟩ <;> unfold laneSetFields <;> decide

/-- A ratio of 1/4 as it enables an OFF lane, and the level group alone on a lane that records. -/
theorem witness_LaneSetAccepted :
    ((asked 0x20 (laneSetBytes 2 1 1 4)).ready ⟨7, 0x20, laneSetBytes 2 1 1 4⟩ = true ∧ (laneSetBytes 2 1 1 4).length = 37 ∧
      (State.reset.lane 0).profile.enabled = false ∧ (State.reset.lane 0).item = none ∧ (State.reset.lane 0).queue = [] ∧
      field (laneSetBytes 2 1 1 4) 35 2 = 4 * field (laneSetBytes 2 1 1 4) 33 2 ∧
      (asked 0x20 (laneSetBytes 1 0 1 1) recording).ready ⟨7, 0x20, laneSetBytes 1 0 1 1⟩ = true ∧
      (recording.lane 0).profile.enabled = true ∧ field (laneSetBytes 1 0 1 1) 1 1 = 1) ∧
      laneSetFields (laneSetBytes 2 1 1 4) ∧ laneSetFields (laneSetBytes 1 0 1 1) := by
  refine ⟨by decide, ?_, ?_⟩ <;> unfold laneSetFields <;> decide

theorem witness_LaneGet_LaneStatusRead_LaneReset :
    (asked 0x21 [7]).ready ⟨7, 0x21, [7]⟩ = true ∧ field [7] 0 1 = (7 : LaneId).val ∧ (asked 0x21 [8]).ready ⟨7, 0x21, [8]⟩ = true ∧
      field [8] 0 1 = 8 ∧ (asked 0x22 [7]).ready ⟨7, 0x22, [7]⟩ = true ∧ (asked 0x23 [0] recording).ready ⟨7, 0x23, [0]⟩ = true ∧
      (recording.lane 0).item = some (openItem 5) ∧ (asked 0x23 [0]).ready ⟨7, 0x23, [0]⟩ = true ∧ (State.reset.lane 0).item = none := by decide

/-- An open item with eight speed segments. -/
def eightSegments : OpenItem :=
  { openItem 5 with record := { opened with segments := List.replicate 8 ⟨0, ⟨1, 1⟩, 0⟩ } }

/-- LANE_RESET of a lane that records: without a buffer and waiting, with a buffer that holds a frame, and with an empty one, for which lane 1 waits. -/
theorem witness_LaneReset_LastEntry :
    let reset (s : State) : State := after .laneReset (asked 0x23 [0] s)
    let entries (s : State) : List (Nat × Option Nat × Bool) := s.memory.queue.map fun b => (b.frames, b.place, b.last)
    (asked 0x23 [0] recording).ready ⟨7, 0x23, [0]⟩ = true ∧
      (let t := reset { recording with memory := ⟨[0], []⟩ };
      entries t = [(0, some 0, true)] ∧ t.memory.waiting = []) ∧
      (let t := reset (recording.mapItem 0 fun o => { o with buffer := some ⟨1, 0, [0, 0, 0, 0, 0, 0]⟩ });
      entries t = [(1, none, true)]) ∧
      (let t := reset ((({ recording with memory := ⟨[1], []⟩ } : State).mapItem 0 fun o => { o with buffer := some ⟨0, 0, []⟩ }).setLane 1
          { lockedLane (Lane.afterReset false none) with item := some (openItem 6) });
      entries t = [(0, some 0, true)] ∧ t.memory.waiting = [] ∧ (t.lane 1).item.map OpenItem.buffer = some (some ⟨0, 0, []⟩)) := by decide

theorem witness_SpeedSet :
    (asked 0x24 [0, 0, 1, 0, 1]).ready ⟨7, 0x24, [0, 0, 1, 0, 1]⟩ = true ∧ (State.reset.lane 0).profile.enabled = false ∧
      (asked 0x24 [0, 0, 1, 0, 4] armed).ready ⟨7, 0x24, [0, 0, 1, 0, 4]⟩ = true ∧ (armed.lane 0).profile.enabled = true ∧
      (armed.lane 0).item = none ∧ field [0, 0, 1, 0, 4] 3 2 = 4 ∧ field [0, 0, 1, 0, 5] 3 2 = 5 ∧
      (asked 0x24 [0, 0, 2, 0, 2] recording).ready ⟨7, 0x24, [0, 0, 2, 0, 2]⟩ = true ∧ (recording.lane 0).item = some (openItem 5) ∧
      (openItem 5).record.segments.getLast? = some ⟨0, ⟨1, 1⟩, 0⟩ ∧ (openItem 5).record.segments.length = 1 ∧
      eightSegments.record.segments.length = 8 ∧ eightSegments.record.segments.getLast? = some ⟨0, ⟨1, 1⟩, 0⟩ := by decide

theorem witness_Injection :
    (asked 0x25 [0, 0, 1]).ready ⟨7, 0x25, [0, 0, 1]⟩ = true ∧ field [0, 0, 1] 1 2 = 1 ∧ field [0, 1, 0] 1 2 = 256 ∧ field [0, 0, 0] 1 2 = 0 ∧
      field [0, 1, 1] 1 2 = 257 ∧
      (let s := lane0 fun x => { lockedLane x with port := { (lockedLane x).port with injection := 1 } };
      s.awake = true ∧ (s.lane 0).port.lock = .locked ∧ (s.lane 0).port.injection = 1) ∧
      State.reset.awake = true ∧ (State.reset.lane 0).port.lock ≠ .locked := by decide

/-! The lane port, the detector and the cue unit -/

/-- A lane whose port measures and collects a status word. -/
def collecting (count : Nat) (spoiled : Bool) (x : Lane) : Lane :=
  { x with port := { x.port with lock := .measuring, assembly := .collecting count 0 spoiled } }

/-- A waiting assembly with and without a marker; 62 and 63 bits collected; a word of zeros, which is good, and one whose check byte is wrong; the
good word declares another rate than the default and the same as a profile of rate code 0 and one channel. -/
theorem witness_FrameNotTaken :
    (State.reset.awake = true ∧ (State.reset.lane 0).port.lock = .noClock ∧ (State.reset.lane 0).port.assembly = .waiting ∧
      (slotOf false false).b.getLsbD 1 = false ∧ (slotOf false true).b.getLsbD 1 = true ∧ (lane0 (collecting 62 false)).awake = true ∧
      ((lane0 (collecting 62 false)).lane 0).port.lock ≠ .locked ∧
      ((lane0 (collecting 62 false)).lane 0).port.assembly = .collecting 62 0 false ∧
      ((lane0 (collecting 63 false)).lane 0).port.assembly = .collecting 63 0 false ∧
      ((lane0 (collecting 63 true)).lane 0).port.assembly = .collecting 63 0 true ∧
      goodWord ((0#64 <<< 1) ||| 1) = none ∧ goodWord ((0#64 <<< 1) ||| 0) = some (⟨0, 0, .one⟩, .stop) ∧
      ((lane0 (collecting 63 false)).lane 0).inUse.rate = 1 ∧ ((lane0 (collecting 63 false)).lane 0).profile.source = .auto ∧
      ((lane0 fun x => { collecting 63 false x with profile := { x.profile with rate := 0, channels := .one } }).lane 0).inUse = ⟨0, .one, 0⟩ ∧
      ((lane0 fun x => { collecting 63 false x with item := some (openItem 5) }).lane 0).item = some (openItem 5)) ∧
      LanePort.reset.Lawful ∧ (collecting 63 true (Lane.afterReset false none)).port.Lawful :=
  ⟨by decide, ⟨by decide, by decide, by decide, by decide, trivial, by decide⟩,
    ⟨by decide, by decide, by decide, by decide, ⟨by decide, by decide⟩, by decide⟩⟩

/-- A LOCKED port about to end a status word that declares the rate and channels in use and PLAY. -/
def wordOfPlay (x : Lane) : Lane :=
  { lockedLane x with port := { (lockedLane x).port with assembly := .collecting 63 0x00001A000000001A false } }

/-- A LOCKED port about to end a status word of zeros, which is good, declares 44,100 Hz and one channel, and STOP. -/
def wordOfStop (x : Lane) : Lane :=
  { lockedLane x with port := { (lockedLane x).port with assembly := .collecting 63 0 false } }

/-- A LOCKED port whose next frame of zeros completes a window that declares SIGNAL. -/
def risingLane (x : Lane) : Lane :=
  { lockedLane x with detector := { x.detector with window := some ⟨8389, 16777, 300, 3, 8388607, 4, 0, 479, 16777⟩, runCount := 2 } }

/-- A LOCKED port whose next frame of zeros completes a window that declares SILENCE. -/
def fallingLane (x : Lane) : Lane :=
  { lockedLane x with detector := { x.detector with
      state := .signal, window := some ⟨8389, 16777, 300, 3, 8388607, 4, 0, 479, 8388⟩, runCount := 299 } }

/-- The lane ARMED with item 5 under a start rule. -/
def armedLane (rule : StartRule) (x : Lane) : Lane := { x with queue := [{ queued 5 with startRule := rule }] }

/-- A LOCKED port on an OFF lane and on an IDLE lane, with a word that changes the rate; a status word of 62 bits does not end, one of 63 bits ends
unless a marker comes; ARMED lanes whose heads stay, and whose IMMEDIATE, SIGNAL and DECK heads open. -/
theorem witness_FrameTaken :
    (let s := lane0 fun x => { x with port := { x.port with lock := .locked } };
      s.awake = true ∧ (s.lane 0).port.lock = .locked ∧ (s.lane 0).profile.enabled = false ∧ (s.lane 0).wordEnds (slotOf false false) = false) ∧
      (lane0 lockedLane).awake = true ∧ ((lane0 lockedLane).lane 0).item = none ∧ ((lane0 lockedLane).lane 0).queue = [] ∧
      ((lane0 (collecting 62 false)).lane 0).wordEnds (slotOf false false) = false ∧
      ((lane0 (collecting 63 false)).lane 0).wordEnds (slotOf false false) = true ∧
      ((lane0 (collecting 63 false)).lane 0).wordEnds (slotOf false true) = false ∧
      ((after (.arrivingFrame 0 (slotOf false false)) (lane0 wordOfStop)).lane 0).inUse = ⟨0, .one, 0⟩ ∧
      (∀ rule ∈ [StartRule.command, .immediate, .signal, .deck], (lane0 fun x => armedLane rule (lockedLane x)).awake = true ∧
        ((lane0 fun x => armedLane rule (lockedLane x)).lane 0).port.lock = .locked ∧
        ((lane0 fun x => armedLane rule (lockedLane x)).lane 0).profile.enabled = true ∧
        ((lane0 fun x => armedLane rule (lockedLane x)).lane 0).item = none ∧
        ((lane0 fun x => armedLane rule (lockedLane x)).lane 0).queue = { queued 5 with startRule := rule } :: []) ∧
      ((after (.arrivingFrame 0 (slotOf false false)) (lane0 fun x => armedLane .command (lockedLane x))).lane 0).item = none ∧
      ((after (.arrivingFrame 0 (slotOf false false)) (lane0 fun x => armedLane .immediate (lockedLane x))).lane 0).item.map
        (fun o => (o.record.start, o.record.length)) = some (0, 1) ∧
      ((after (.arrivingFrame 0 (slotOf false false)) (lane0 fun x => armedLane .signal (risingLane x))).lane 0).item.map
        (fun o => (o.record.start, o.record.length)) = some (1, 0) ∧
      ((after (.arrivingFrame 0 (slotOf false false)) (lane0 fun x => armedLane .deck (wordOfPlay x))).lane 0).item.map
        (fun o => (o.record.start, o.record.length)) = some (1, 0) := by decide

/-- The lane RECORDING item 5, which ends by these conditions and has this target. -/
def holding (ends : EndConditions) (target : Nat) (x : Lane) : Lane :=
  { x with item := some { openItem 5 with queued := { queued 5 with ends := ends, target := target } } }

/-- A lane that records: with no buffer and one to be granted, with none to be granted, and with a buffer one frame short of a block; a frame whose channel A
fails; and items that the frame closes, each with its reason: a changed rate, the length cap, a target of the 21 microseconds of one frame (and none of 22),
a declaration of SILENCE, and a motion that leaves PLAY. -/
theorem witness_FrameOfItem :
    let closes (s : State) : List CloseReason := (after (.arrivingFrame 0 (slotOf false false)) s).table.closed.map ClosedRecord.reason
    (recording.awake = true ∧ (recording.lane 0).port.lock = .locked ∧ (recording.lane 0).profile.enabled = true ∧
      (recording.lane 0).item = some (openItem 5) ∧ recording.canGrant 0 = true ∧ recording.memory.waiting = [] ∧ closes recording = []) ∧
      ((after (.arrivingFrame 0 (slotOf false false)) { recording with memory := ⟨[0], []⟩ }).lane 0).item.map (fun o => o.record.lost) = some 1 ∧
      (after (.arrivingFrame 0 (slotOf false false)) (recording.mapItem 0 fun o => { o with blockSize := 256, buffer := some ⟨255, 0, []⟩ })).memory.queue.map
        (fun b => (b.frames, b.last)) = [(256, false)] ∧
      ((after (.arrivingFrame 0 ⟨1, 0⟩) recording).lane 0).item.map (fun o => o.record.concealed) = some 1 ∧
      closes (lane0 fun x => holding ⟨false, false, false, false⟩ 0 (wordOfStop x)) = [.rateChange] ∧
      closes (recording.mapItem 0 fun o => { o with record := { o.record with length := 68719476734 } }) = [.cap] ∧
      closes (lane0 fun x => holding ⟨false, false, true, false⟩ 21 (lockedLane x)) = [.length] ∧
      closes (lane0 fun x => holding ⟨false, false, true, false⟩ 22 (lockedLane x)) = [] ∧
      closes (lane0 fun x => holding ⟨false, true, false, false⟩ 0 (fallingLane x)) = [.silence] ∧
      closes (lane0 fun x => let y := holding ⟨false, false, false, true⟩ 0 (wordOfStop x);
        { y with port := { y.port with motion := .play }, profile := { y.profile with source := .fixed } }) = [.deck] := by decide

/-- A pending ratio at the 49th frame, whose segment starts at 1,000 microseconds, and at the first, where the segment holds no frame yet (R63). -/
theorem witness_FrameOfItem_speed :
    let segments (n : Nat) : Option (List Segment) := ((after (.arrivingFrame 0 (slotOf false false)) (recording.mapItem 0 fun o =>
      { o with pendingSpeed := some ⟨2, 1⟩, record := { o.record with length := n } })).lane 0).item.map fun o => o.record.segments
    segments 48 = some [⟨0, ⟨1, 1⟩, 0⟩, ⟨48, ⟨2, 1⟩, 1000⟩] ∧ segments 0 = some [⟨0, ⟨2, 1⟩, 0⟩] := by decide

/-- Samples of magnitude 3 at a clip level of 3 with K = 2: a run begins, is found, goes on, and ends at a sample below; the frame begins a window with the
profile's settings, or is the 479th of one, which it leaves incomplete. -/
theorem witness_DetectorWindow_frames :
    let s (run : Option OverloadRun) (window : Option Window) : State := lane0 fun x => { lockedLane x with
      profile := { (lockedLane x).profile with clip := 3, runK := 2 }
      detector := { x.detector with runA := run, window := window } }
    let next (run : Option OverloadRun) (window : Option Window) (a : BitVec 26) : Detector :=
      ((after (.arrivingFrame 0 ⟨a, 0⟩) (s run window)).lane 0).detector
    (s none none).awake = true ∧ ((s none none).lane 0).port.lock = .locked ∧
      (next none none 12).runA = some ⟨1, 0, false⟩ ∧ (next (some ⟨1, 5, false⟩) none 12).runA = some ⟨2, 5, true⟩ ∧
      (next (some ⟨2, 5, true⟩) none 12).runA = some ⟨3, 5, true⟩ ∧ (next (some ⟨2, 5, true⟩) none 0).runA = none ∧
      (next none none 12).window = some ⟨8389, 16777, 300, 3, 3, 2, 0, 1, 3⟩ ∧
      (next none (some ⟨1, 2, 3, 4, 5, 6, 7, 478, 9⟩) 12).window = some ⟨1, 2, 3, 4, 5, 6, 7, 479, 9⟩ ∧
      (next none (some ⟨1, 2, 3, 4, 5, 6, 7, 478, 9⟩) 12).runA = none := by decide

/-- A window that the next frame completes, its peak at each threshold, in each state; and one a frame short. -/
theorem witness_DetectorWindow :
    let w : Window := ⟨8389, 16777, 300, 3, 8388607, 4, 0, 479, 16777⟩;
    (let s := lane0 fun x => { lockedLane x with detector := { x.detector with window := some w, runCount := 2 } };
      s.awake = true ∧ (s.lane 0).port.lock = .locked ∧ (s.lane 0).detector.window = some w ∧ w.frames + 1 = rateHz (s.lane 0).inUse.rate / 100 ∧
      (s.lane 0).detector.state = .silence ∧ w.high ≤ w.peak ∧ w.ng ≤ (s.lane 0).detector.runCount + 1) ∧
      (let s := lane0 fun x => { lockedLane x with detector := { x.detector with window := some { w with peak := 8388 }, state := .signal, runCount := 299 } };
      s.awake = true ∧ (s.lane 0).detector.state = .signal ∧ (s.lane 0).detector.window = some { w with peak := 8388 } ∧
      w.ns ≤ (s.lane 0).detector.runCount + 1) ∧
      (lane0 lockedLane).awake = true ∧ ((lane0 lockedLane).lane 0).detector.window = none := by decide

/-- A window that passes on a lane that records leaves the item and moves the threshold. -/
theorem witness_RateWindow_recording :
    let s := recording.mapLane 0 fun x => { x with profile := { x.profile with quality := 7 }, port := { x.port with windowConcealed := 3 } }
    s.awake = true ∧ (s.lane 0).port.lock = .locked ∧ (s.lane 0).item = some (openItem 5) ∧ (openItem 5).dropout = none ∧
      (let t := after (.rateWindowEnd 0 11941 6144000 0) s;
      (t.lane 0).item = some (openItem 5) ∧ (t.lane 0).port.windowLimit = 7 ∧ (t.lane 0).port.windowConcealed = 0) := by decide

/-- Edge counts whose rates are the bounds of the tolerance at 48,000 Hz and 5 tenths of a per cent: 47,760 Hz passes and 47,756 Hz fails. -/
theorem witness_RateWindow :
    (let s := lane0 fun x => { x with port := { x.port with lock := .measuring } };
      s.awake = true ∧ (s.lane 0).port.lock = .measuring ∧ (s.lane 0).item = none ∧ rateHz (s.lane 0).inUse.rate = 48000 ∧
      (s.lane 0).profile.tolerance = 5) ∧ ((lane0 lockedLane).lane 0).port.lock = .locked ∧ (State.reset.lane 0).port.lock = .noClock ∧
      |((11941 - 1 : ℕ) * 24576000 / (6144000 : ℕ) - (48000 : ℕ) : ℚ)| ≤ (48000 : ℕ) * (5 : ℕ) / 1000 ∧
      ¬|((11940 - 1 : ℕ) * 24576000 / (6144000 : ℕ) - (48000 : ℕ) : ℚ)| ≤ (48000 : ℕ) * (5 : ℕ) / 1000 := by
  refine ⟨by decide, by decide, by decide, ?_, ?_⟩ <;> norm_num

/-- An item in DROPOUT since its second frame, its port measuring, its marks as many as said. -/
def droppedOut (marks : Nat) : State :=
  lane0 fun x => { lockedLane x with
    port := { x.port with lock := .measuring }
    item := some { openItem 5 with dropout := some ⟨500, 1⟩, record := { opened with length := 1, marks := List.replicate marks ⟨.cue, 0, 0, 0, false, false, 0⟩ } } }

/-- A lane that records, with a grace and without; and an item in DROPOUT with 31 and with 32 marks. A window that passes 500 ms after the loss, the limit itself,
relocks the item; one that passes 501 ms after it finds the item closed by the expiry and the next head armed on the SIGNAL held while unlocked (R25, R43), and
resets the detector. -/
theorem witness_LockLossAndReturn :
    (recording.awake = true ∧ (recording.lane 0).port.lock = .locked ∧ (recording.lane 0).item = some (openItem 5) ∧ (openItem 5).dropout = none ∧
      (recording.lane 0).profile.grace = 500 ∧ rateWithin (recording.lane 0).inUse.rate (recording.lane 0).profile.tolerance 11940 6144000 = false) ∧
      ((recording.mapLane 0 fun x => { x with profile := { x.profile with grace := 0 } }).lane 0).profile.grace = 0 ∧
      ((lane0 lockedLane).awake = true ∧ ((lane0 lockedLane).lane 0).item = none ∧ (State.reset.lane 0).port.lock = .noClock) ∧
      ((droppedOut 31).awake = true ∧ ((droppedOut 31).lane 0).port.lock = .measuring ∧
      ((droppedOut 31).lane 0).item.map OpenItem.dropout = some (some ⟨500, 1⟩) ∧
      rateWithin ((droppedOut 31).lane 0).inUse.rate ((droppedOut 31).lane 0).profile.tolerance 11941 6144000 = true ∧
      ((droppedOut 31).lane 0).item.map (fun o => o.record.marks.length) = some 31 ∧
      ((droppedOut 32).lane 0).item.map (fun o => o.record.marks.length) = some 32) ∧
      (let t := after (.rateWindowEnd 0 11941 6144000 500) (droppedOut 31);
      (t.lane 0).item.map (fun o => (o.dropout, (o.record.marks.getLast?.map fun m => (m.offset, m.extent)))) = some (none, some (1, 500))) ∧
      (let s := (droppedOut 31).mapLane 0 fun x => { x with queue := [queued 6], detector := { x.detector with state := .signal } };
      let t := after (.rateWindowEnd 0 11941 6144000 501) s;
      (t.lane 0).port.lock = .locked ∧ t.table.closed.map ClosedRecord.reason = [.lockLost] ∧ (t.lane 0).detector.state = .silence ∧
        (t.lane 0).baseline.map Baseline.detector = some .signal) := by decide

/-- A lane whose debounce is about to find its line low. -/
def pressed (mode : CueMode) (f : Lane → Lane) : State :=
  lane0 fun x => { f (lockedLane x) with
    profile := { (lockedLane x).profile with cueMode := mode }
    cue := ⟨true, false, some 20⟩ }

/-- The three modes at an idle lane; a cue end and a mark on a lane that records; a CUE head whose target is beyond its pre-roll, and one whose pre-roll of
48 frames reaches it. -/
theorem witness_CueUnit :
    (State.reset.awake = true ∧ (State.reset.lane 0).cue.running = none) ∧
      (∀ mode ∈ [CueMode.off, .startEnd, .mark], (pressed mode id).awake = true ∧ ((pressed mode id).lane 0).cue = ⟨true, false, some 20⟩ ∧
        ((pressed mode id).lane 0).profile.enabled = true ∧ ((pressed mode id).lane 0).profile.cueMode = mode ∧ ((pressed mode id).lane 0).item = none) ∧
      (let o := { openItem 5 with queued := { queued 5 with ends := ⟨true, false, false, false⟩ } };
      ((pressed .startEnd fun x => { x with item := some o }).lane 0).item = some o ∧ o.queued.ends.cue = true) ∧
      ((pressed .mark fun x => { x with item := some (openItem 5) }).lane 0).item = some (openItem 5) ∧
      (let q := { queued 5 with startRule := .cue, ends := ⟨false, false, true, false⟩, target := 1 };
      ((pressed .startEnd fun x => { x with queue := [q] }).lane 0).queue = [q] ∧
      ((pressed .startEnd fun x => { x with queue := [q] }).lane 0).prerollTime (((pressed .startEnd fun x => { x with queue := [q] }).lane 0).preroll q) < q.target ∧
      ((pressed .startEnd fun x => { x with queue := [q] }).lane 0).port.lock = .locked) ∧
      (let q := { queued 5 with startRule := .cue, ends := ⟨false, false, true, false⟩, target := 1000, preroll := 48 };
      let f : Lane → Lane := fun x => { x with queue := [q], ring := List.replicate 48 ⟨0, 0, 0, false, false⟩ };
      q.target ≤ ((pressed .startEnd f).lane 0).prerollTime ((((pressed .startEnd f).lane 0).eligibleFrames.drop
        (((pressed .startEnd f).lane 0).eligibleFrames.length - q.preroll)).length)) := by decide

/-- A lane that records, for its events; and the three item commands of an open, a queued, a closed and an unknown item. -/
theorem witness_LaneFrame :
    recording.awake = true ∧ (recording.monitor .a).source ≠ .lane 0 ∧
      (.itemEnd, 0x33, 4) ∈ commandTable ∧ (.itemStart, 0x32, 4) ∈ commandTable ∧ (.itemAbandon, 0x34, 4) ∈ commandTable ∧
      ((asked 0x33 [0, 0, 0, 5] recording).ready ⟨7, 0x33, [0, 0, 0, 5]⟩ = true ∧
        (asked 0x33 [0, 0, 0, 5] recording).find (BitVec.ofNat 32 (field [0, 0, 0, 5] 0 4)) = some (.opened 0 (openItem 5))) ∧
      ((asked 0x32 [0, 0, 0, 5] armed).ready ⟨7, 0x32, [0, 0, 0, 5]⟩ = true ∧ (asked 0x32 [0, 0, 0, 5] armed).find 5 = some (.queued 0 0 (queued 5))) ∧
      ((asked 0x34 [0, 0, 0, 5] closedItem).ready ⟨7, 0x34, [0, 0, 0, 5]⟩ = true ∧
        (asked 0x34 [0, 0, 0, 5] closedItem).find 5 = some (.closed ⟨queued 5, 0, opened, .command⟩)) ∧
      (asked 0x34 [0, 0, 0, 6] recording).find 6 = none := by decide

/-! The item commands -/

/-- ITEM_QUEUE's parameters for lane 0: an item, the end conditions and a target. -/
def queueBytes (item ends target : Byte) : List Byte := [0, 0, 0, 0, item, 0, ends, 0, 0, 0, 0, target, 0, 0, 0]

/-- An enabled lane with so many queued records, items 1 and on. -/
def queueOf (n : Nat) : State := lane0 fun x => { lockedLane x with queue := (List.range n).map fun k => queued (BitVec.ofNat 32 (k + 1)) }

/-- An OFF lane; item 0, and LENGTH without a target; an item of the table; an empty pool; 15 and 16 queued records. -/
theorem witness_ItemQueue :
    ((asked 0x30 (queueBytes 99 0 0)).ready ⟨7, 0x30, queueBytes 99 0 0⟩ = true ∧ 15 ≤ (queueBytes 99 0 0).length ∧
      (queueBytes 99 0 0).length = 15 + field (queueBytes 99 0 0) 14 1 ∧ field (queueBytes 99 0 0) 0 1 = 0 ∧
      (State.reset.lane 0).profile.enabled = false) ∧
      ¬itemQueueFields (queueBytes 0 0 0) ∧ ¬itemQueueFields (queueBytes 99 4 0) ∧ itemQueueFields (queueBytes 99 0 0) ∧
      itemQueueFields (queueBytes 5 4 1) ∧
      ((asked 0x30 (queueBytes 5 4 1) armed).ready ⟨7, 0x30, queueBytes 5 4 1⟩ = true ∧ (5 : Item) ∈ armed.numbers ∧ (99 : Item) ∉ armed.numbers ∧
      (armed.lane 0).profile.enabled = true ∧ ∀ r ∈ ({ armed with table := ⟨[], []⟩ } : State).table.pool, armed.placeHeld r = true) ∧
      (asked 0x30 (queueBytes 99 0 0) (queueOf 15)).ready ⟨7, 0x30, queueBytes 99 0 0⟩ = true ∧ (99 : Item) ∉ (queueOf 15).numbers ∧
      0 ∈ (queueOf 15).table.pool ∧ (queueOf 15).placeHeld 0 = false ∧ ((queueOf 15).lane 0).queue.length = 15 ∧
      ((queueOf 16).lane 0).queue.length = 16 := by
  refine ⟨by decide, ?_, ?_, ?_, ?_, by decide, by decide, by decide, by decide, by decide, by decide, by decide⟩ <;> unfold itemQueueFields <;> decide

theorem witness_RecordsFreed :
    ((asked 0x31 [0, 0, 0, 2] (queueOf 2)).ready ⟨7, 0x31, [0, 0, 0, 2]⟩ = true ∧ (queueOf 2).numbers.Nodup ∧ 0 ∉ (queueOf 2).numbers ∧
      ((queueOf 2).lane 0).queue[1]? = some (queued 2) ∧ (queued 2).item = BitVec.ofNat 32 (field [0, 0, 0, 2] 0 4)) ∧
      (asked 0x37 [0, 0, 0, 5] closedItem).ready ⟨7, 0x37, [0, 0, 0, 5]⟩ = true ∧ closedItem.numbers.Nodup ∧ 0 ∉ closedItem.numbers ∧
      closedItem.table.closed = [] ++ ⟨queued 5, 0, opened, .command⟩ :: [] := by decide

/-- An item the table does not hold; a queued, an open and a closed one; a queued item behind the head. -/
theorem witness_ItemNumberRefusals :
    ((.itemEnd, 0x33, 4) ∈ commandTable ∧ (asked 0x33 [0, 0, 0, 6] recording).ready ⟨7, 0x33, [0, 0, 0, 6]⟩ = true ∧ (6 : Item) ∉ recording.numbers ∧
      (.itemMark, 0x35, 8) ∈ commandTable ∧ field [0, 0, 0, 5, 0, 0, 255, 255] 4 4 = 65535) ∧
      (armed.numbers.Nodup ∧ 0 ∉ armed.numbers ∧ queued 5 ∈ (armed.lane 0).queue) ∧
      ((queueOf 2).numbers.Nodup ∧ queued 2 ∈ ((queueOf 2).lane 0).queue ∧ ((queueOf 2).lane 0).queue.head? ≠ some (queued 2)) ∧
      (recording.numbers.Nodup ∧ 0 ∉ recording.numbers ∧ (recording.lane 0).item = some (openItem 5)) ∧
      closedItem.numbers.Nodup ∧ 0 ∉ closedItem.numbers ∧ (⟨queued 5, 0, opened, .command⟩ : ClosedRecord) ∈ closedItem.table.closed := by decide

/-- An ARMED lane whose head asks for 48 frames of pre-roll, which are 1,000 microseconds at 48,000 Hz, with a target. -/
def armedWith (target : Nat) : State :=
  lane0 fun x => { lockedLane x with
    queue := [{ queued 5 with ends := ⟨false, false, true, false⟩, target := target, preroll := 48 }]
    ring := List.replicate 48 ⟨0, 0, 0, false, false⟩ }

/-- A lane that is not LOCKED, and targets one above the programme time of the pre-roll and equal to it. -/
theorem witness_ItemStart :
    ((asked 0x32 [0, 0, 0, 5] (armedWith 1001)).ready ⟨7, 0x32, [0, 0, 0, 5]⟩ = true ∧ (armedWith 1001).numbers.Nodup ∧ 0 ∉ (armedWith 1001).numbers ∧
      ((armedWith 1001).lane 0).queue.head?.map Queued.item = some 5 ∧ ((armedWith 1001).lane 0).profile.enabled = true ∧
      ((armedWith 1001).lane 0).item = none ∧ ((armedWith 1001).lane 0).port.lock = .locked) ∧
      (((armedWith 1001).lane 0).queue.head?.map fun q => ((armedWith 1001).lane 0).prerollTime (((armedWith 1001).lane 0).preroll q)) = some 1000 ∧
      (((armedWith 1000).lane 0).queue.head?.map fun q => ((armedWith 1000).lane 0).prerollTime (((armedWith 1000).lane 0).preroll q)) = some 1000 ∧
      ((armed.mapLane 0 fun x => { x with port := LanePort.reset }).lane 0).port.lock ≠ .locked := by decide

/-- Marks at offset 0, each under its own serial, so many. -/
def marked (n : Nat) : OpenItem :=
  { openItem 5 with record := { opened with marks := (List.range n).map fun k => ⟨.cue, 0, 0, 0, false, false, k⟩ } }

theorem witness_ItemEndAbandon_ItemMark_TableReads :
    (recording.numbers.Nodup ∧ 0 ∉ recording.numbers ∧ (recording.lane 0).item = some (openItem 5) ∧
      (openItem 5).queued.item = BitVec.ofNat 32 (field [0, 0, 0, 5] 0 4) ∧ (asked 0x33 [0, 0, 0, 5] recording).ready ⟨7, 0x33, [0, 0, 0, 5]⟩ = true ∧
      (asked 0x34 [0, 0, 0, 5] recording).ready ⟨7, 0x34, [0, 0, 0, 5]⟩ = true) ∧
      ((asked 0x35 [0, 0, 0, 5, 0, 0, 255, 255] recording).ready ⟨7, 0x35, [0, 0, 0, 5, 0, 0, 255, 255]⟩ = true ∧
      field [0, 0, 0, 5, 0, 1, 0, 0] 4 4 = 65536 ∧ (marked 31).record.marks.length = 31 ∧ (marked 32).record.marks.length = 32 ∧
      (∀ m ∈ (marked 32).record.marks, m.serial < (marked 32).record.marks.length) ∧
      (asked 0x35 [0, 0, 0, 5, 0, 0, 0, 1] (lane0 fun x => { lockedLane x with item := some (marked 32) })).ready ⟨7, 0x35, [0, 0, 0, 5, 0, 0, 0, 1]⟩ = true ∧
      (lane0 fun x => { lockedLane x with item := some (marked 32) }).numbers.Nodup) ∧
      ((asked 0x36 [0, 0, 0, 5] armed).ready ⟨7, 0x36, [0, 0, 0, 5]⟩ = true ∧ armed.numbers.Nodup ∧ queued 5 ∈ (armed.lane 0).queue ∧
      (asked 0x36 [0, 0, 0, 5] closedItem).ready ⟨7, 0x36, [0, 0, 0, 5]⟩ = true ∧
      (⟨queued 5, 0, opened, .command⟩ : ClosedRecord) ∈ closedItem.table.closed ∧ (asked 0x38 []).ready ⟨7, 0x38, []⟩ = true) := by decide

/-! The recall unit -/

/-- ROUTE_SET's parameters: an item, a sink and an idle limit of two bytes. -/
def routeBytesOf (item sink high low : Byte) : List Byte := [0, 0, 0, item, sink, high, low, 0, 0, 0, 0, 0]

/-- Every route taken by the item of its number and 1. -/
def allRoutes : State := { State.reset with routes := Vector.ofFn fun r => some { waitingRoute with item := BitVec.ofNat 32 (r.val + 1) } }

/-- Idle limits 0, 100 and 60,000 are accepted, 99 and 60,001 are not; all routes taken; an item routed; a sink in use. -/
theorem witness_RouteSet :
    ((asked 0x40 (routeBytesOf 9 2 0 100)).ready ⟨7, 0x40, routeBytesOf 9 2 0 100⟩ = true ∧ (routeBytesOf 9 2 0 100).length = 12) ∧
      routeSetFields (routeBytesOf 9 2 0 0) ∧ routeSetFields (routeBytesOf 9 2 0 100) ∧ routeSetFields (routeBytesOf 9 0 234 96) ∧
      ¬routeSetFields (routeBytesOf 9 2 0 99) ∧ ¬routeSetFields (routeBytesOf 9 2 234 97) ∧ ¬routeSetFields (routeBytesOf 0 2 0 0) ∧
      ((asked 0x40 (routeBytesOf 99 2 0 0) allRoutes).ready ⟨7, 0x40, routeBytesOf 99 2 0 0⟩ = true ∧ (∀ r, allRoutes.route r ≠ none) ∧
      State.reset.route 0 = none ∧ (State.reset.setRoute 0 (some waitingRoute)).route 0 = some waitingRoute ∧
      (State.reset.setRoute 0 (some waitingRoute)).route 1 = none ∧
      ({ waitingRoute with sink := .monitorA } : Route).sink.code = field (routeBytesOf 9 0 0 0) 4 1 ∧ waitingRoute.state = .waiting) := by
  refine ⟨by decide, ?_, ?_, ?_, ?_, ?_, ?_, by decide⟩ <;> unfold routeSetFields <;> decide

theorem witness_RouteClear_RouteRead :
    (asked 0x41 [15] allRoutes).ready ⟨7, 0x41, [15]⟩ = true ∧ field [15] 0 1 = (15 : RouteId).val ∧ (allRoutes.route 15).isSome = true ∧
      (asked 0x41 [16]).ready ⟨7, 0x41, [16]⟩ = true ∧ field [16] 0 1 = 16 ∧ (asked 0x41 [15]).ready ⟨7, 0x41, [15]⟩ = true ∧
      State.reset.route 15 = none ∧ (asked 0x42 [15] allRoutes).ready ⟨7, 0x42, [15]⟩ = true ∧
      (asked 0x42 [16]).ready ⟨7, 0x42, [16]⟩ = true := by decide

/-- The link UP with a route at 3. -/
def routed (t : Route) : State := linked.setRoute 3 (some t)

/-- The route at 3 is the only one of its item. -/
theorem routed_unique (t : Route) (item : Item) : ∀ q u, (routed t).route q = some u → u.item = item → q = 3 := by
  intro q u h _
  by_cases e : q = 3
  · exact e
  · have free : ∀ r : RouteId, linked.routes[r] = none := by decide
    have same : (routed t).route q = linked.routes[q] := Vector.getElem_set_ne (by decide) q.isLt fun k => e (Fin.ext k.symm)
    rw [same, free q] at h
    cases h

/-- A packet whose LAST flag is set, with the trailer of one frame and the digest `digest`. -/
def lastOf (digest : BitVec 32) : RecallPacket := { recalled with flags := 3, trailer := some ⟨1, 0, 0, 0, digest, 1, 0, 1⟩ }

/-- The packet `p` is what the block record check calls consistent. -/
theorem recalled_consistent : recalled.Consistent := by
  refine ⟨by decide, by decide, by decide, by decide, fun h => absurd h (by decide)⟩

theorem lastOf_consistent (d : BitVec 32) : (lastOf d).Consistent :=
  ⟨show (1 : Byte).toNat ≤ 5 by decide, .inl rfl, show (0 : BitVec 32).toNat ≤ 4294967294 by decide,
    .inl (show 1 ≤ (1 : BitVec 16).toNat ∧ (1 : BitVec 16).toNat ≤ 1024 by decide),
    fun _ => ⟨⟨1, 0, 0, 0, d, 1, 0, 1⟩, rfl, Nat.le_refl _, Nat.le_of_ble_eq_true rfl, Nat.le_refl _, Nat.le_of_ble_eq_true rfl, Nat.zero_le _⟩⟩

/-- A packet that no route carries, a late one, an inconsistent one, a duplicate, one of another format, and one for which the FIFO of a ROUTED
port that holds 8,192 frames has no room. -/
theorem witness_RecallTurnedAway :
    (linked.receiving = true ∧ recalled.wf = true ∧ (∀ r : RouteId, linked.route r = none)) ∧
      ((routed waitingRoute).receiving = true ∧ (routed waitingRoute).route 3 = some waitingRoute ∧ waitingRoute.item = recalled.item ∧
      waitingRoute.state = .waiting ∧ ({ waitingRoute with state := .verified } : Route).state ≠ .waiting) ∧
      recalled.Consistent ∧ ¬({ recalled with rate := 6 } : RecallPacket).Consistent ∧
      (({ recalled with rate := 6 } : RecallPacket).wf = true ∧ ({ recalled with rate := 6 } : RecallPacket).flags.getLsbD 1 = false ∧
      recalled.seq.toNat < ({ waitingRoute with next := 1 } : Route).next ∧ waitingRoute.next ≤ recalled.seq.toNat ∧
      recalled.flags.getLsbD 1 = false ∧ (⟨0, .one⟩ : Format).rate.val ≠ recalled.rate.toNat ∧
      (let s := (routed { waitingRoute with sink := .monitorA, state := .receiving }).setMonitor .a
        { Monitor.reset with source := .routed, state := .playing, ref := some ⟨3, ⟨1, .one⟩, false⟩ };
      s.receiving = true ∧ (s.monitor .a).source = .routed ∧ (s.monitor .a).ref.map RouteRef.route = some 3 ∧ recalled.frames.toNat ≠ 0)) := by
  refine ⟨by decide, by decide, recalled_consistent, fun h => absurd h.1 (by decide), by decide⟩

/-- A FIFO of 8,192 frames, and of one fewer, which with the packet's frame is full. -/
theorem witness_RecallTurnedAway_room (f : Pair) :
    8192 < (List.replicate 8192 f).length + recalled.frames.toNat ∧ (List.replicate 8191 f).length + recalled.frames.toNat ≤ 8192 := by
  rw [List.length_replicate, List.length_replicate]; decide

theorem witness_RecallAccepted :
    ((routed waitingRoute).receiving = true ∧ recalled.wf = true ∧ (routed waitingRoute).route 3 = some waitingRoute ∧
      waitingRoute.item = recalled.item ∧ waitingRoute.next = recalled.seq.toNat ∧ recalled.flags.getLsbD 1 = false ∧ waitingRoute.format = none ∧
      waitingRoute.sink.port = none) ∧ recalled.Consistent ∧
      (∀ q u, (routed waitingRoute).route q = some u → u.item = recalled.item → q = 3) ∧
      (let s := (routed { waitingRoute with sink := .monitorA }).setMonitor .a { Monitor.reset with source := .routed };
      s.receiving = true ∧ (s.monitor .a).source = .routed ∧ (s.monitor .a).ref = none ∧
      (s.monitor .a).fifo.length + recalled.frames.toNat ≤ 8192) :=
  ⟨by decide, recalled_consistent, routed_unique _ _, by decide⟩

/-- The digest of the packet's three bytes, and another; a fault before it, a count that differs, an expected digest that differs; a LAST packet for a ROUTED
port, for a port whose FIFO has no room, and of another format. -/
theorem witness_RecallOutcome :
    let digest := crc32 waitingRoute.crc recalled.payload ^^^ 0xFFFFFFFF#32
    ((routed waitingRoute).receiving = true ∧ (lastOf digest).wf = true ∧ (lastOf digest).flags.getLsbD 1 = true ∧
      (lastOf digest).flags.getLsbD 0 = ((lastOf digest).seq == 0) ∧ (lastOf digest).seq.toNat = waitingRoute.next ∧
      waitingRoute.sink = .verify ∧ waitingRoute.gaps = 0 ∧ waitingRoute.expected = none ∧ digest ≠ 0 ∧
      min 1099511627775 (waitingRoute.frames + (lastOf digest).frames.toNat) = (1 : BitVec 40).toNat - (0 : BitVec 32).toNat) ∧
      (lastOf digest).Consistent ∧ (∀ q u, (routed waitingRoute).route q = some u → u.item = recalled.item → q = 3) ∧
      ¬({ lastOf digest with rate := 6 } : RecallPacket).Consistent ∧
      (({ lastOf digest with rate := 6 } : RecallPacket).wf = true ∧
      (routed { waitingRoute with state := .receiving }).awake = true ∧
      (routed { waitingRoute with state := .receiving }).route 3 = some { waitingRoute with state := .receiving } ∧
      waitingRoute.idleLimit = 100 ∧ linked.awake = true ∧ linked.route 3 = none) ∧
      (let s := (routed { waitingRoute with sink := .monitorA }).setMonitor .a { Monitor.reset with source := .routed };
      s.receiving = true ∧ ({ waitingRoute with sink := .monitorA } : Route).sink.port = some .a ∧ (s.monitor .a).source = .routed ∧ (s.monitor .a).ref = none ∧
      (s.monitor .a).fifo.length + (lastOf digest).frames.toNat ≤ 8192) ∧
      (let s := (routed { waitingRoute with sink := .monitorA, state := .receiving }).setMonitor .a
        { Monitor.reset with source := .routed, state := .playing, ref := some ⟨3, ⟨1, .one⟩, false⟩ };
      s.receiving = true ∧ (s.monitor .a).source = .routed ∧ (s.monitor .a).ref.map RouteRef.route = some 3 ∧ (lastOf digest).frames.toNat ≠ 0) ∧
      (⟨0, .one⟩ : Format).rate.val ≠ (lastOf digest).rate.toNat :=
  ⟨by decide, lastOf_consistent _, routed_unique _ _, fun h => absurd h.1 (by decide), by decide, by decide, by decide, by decide⟩

/-- What a RECALL packet makes of the route that waits for it: state, cause, gaps, next sequence and frames. -/
def recallTo (p : RecallPacket) : Option (RouteState × Option Cause × List Nat) :=
  ((after (.recallPacket p) (routed waitingRoute)).route 3).map fun t => (t.state, t.cause, [t.gaps, t.next, t.frames])

/-- An accepted LAST that itself brings a sequence jump, or a FIRST flag that its sequence does not call for, makes the route INCOMPLETE with GAP (R143). -/
theorem witness_RecallOutcome_gap :
    recallTo (lastOf (digestOf (crc32 crc32Start [0, 0, 1]))) = some (.verified, none, [0, 1, 1]) ∧
      recallTo { lastOf 0 with seq := 3, flags := 2 } = some (.incomplete, some .gap, [1, 4, 1]) ∧
      recallTo { lastOf 0 with flags := 2 } = some (.incomplete, some .gap, [1, 1, 1]) := by decide

/-! The monitor ports -/

/-- Each source of either port, a port, a source and a lane that are none, and the lane in force selected again. -/
theorem witness_MonitorSelect_MonitorStatus :
    (asked 0x50 [1, 1, 7]).ready ⟨7, 0x50, [1, 1, 7]⟩ = true ∧ field [1, 1, 7] 2 1 = (7 : LaneId).val ∧
      (asked 0x50 [2, 0, 0]).ready ⟨7, 0x50, [2, 0, 0]⟩ = true ∧ (asked 0x50 [0, 3, 0]).ready ⟨7, 0x50, [0, 3, 0]⟩ = true ∧
      (asked 0x50 [0, 1, 8]).ready ⟨7, 0x50, [0, 1, 8]⟩ = true ∧ (asked 0x50 [0, 2, 0]).ready ⟨7, 0x50, [0, 2, 0]⟩ = true ∧
      (asked 0x51 [1]).ready ⟨7, 0x51, [1]⟩ = true ∧ (asked 0x51 [2]).ready ⟨7, 0x51, [2]⟩ = true ∧
      (let s := asked 0x50 [0, 1, 0] (State.reset.setMonitor .a { Monitor.reset with source := .lane 0, state := .live, live := some ⟨1, 2⟩ });
      s.ready ⟨7, 0x50, [0, 1, 0]⟩ = true ∧ (s.monitor .a).source = .lane 0 ∧ ((after .monitorSelect s).monitor .a).live = some ⟨1, 2⟩) := by decide

/-- Port A with this source, state, reference and FIFO, and lane 0 LOCKED. -/
def port (source : Source) (state : MonitorState) (ref : Option RouteRef) (fifo : List Pair) : State :=
  (lane0 lockedLane).setMonitor .a { Monitor.reset with source := source, state := state, ref := ref, fifo := fifo }

theorem witness_MonitorOutput :
    let f : RouteRef := ⟨3, ⟨0, .one⟩, false⟩
    let g : RouteRef := ⟨3, ⟨0, .one⟩, true⟩
    let fifo : List Pair := [⟨1, 0⟩, ⟨2, 0⟩]
    State.reset.awake = true ∧ (State.reset.monitor .a).state = .silent ∧
      ((port .routed .filling (some f) fifo).awake = true ∧ ((port .routed .filling (some f) fifo).monitor .a).ref = some f) ∧
      ((port .routed .starved (some f) []).awake = true ∧ ((port .routed .starved (some f) []).monitor .a).state = .starved) ∧
      ((port (.lane 0) .live none []).awake = true ∧ ((port (.lane 0) .live none []).monitor .a).live = none ∧
        ((port (.lane 0) .live none []).lane 0).port.lock = .locked ∧ ((port (.lane 1) .live none []).lane 1).port.lock ≠ .locked) ∧
      ((port .routed .playing (some g) [⟨1, 0⟩]).awake = true ∧ ((port .routed .playing (some g) [⟨1, 0⟩]).monitor .a).fifo = ⟨1, 0⟩ :: [] ∧
        g.final = true ∧ f.final = false) := by decide

/-! The archive link -/

theorem witness_LinkSignal_LinkWord_PacketsTaken :
    (State.reset.awake = true ∧ State.reset.rx.state = .down ∧ State.reset.rx.signal = false) ∧
      (linked.awake = true ∧ linked.rx.state = .up ∧ linked.receiving = true ∧ linked.cmd.done.length + linked.cmd.waiting.length < 4) ∧
      (let s : State := { State.reset with rx := ⟨.aligning, true, 63, 0, none⟩ };
      s.awake = true ∧ s.rx.state = .aligning ∧ s.rx.align = 63) ∧
      (let s : State := { State.reset with rx := ⟨.aligning, true, 62, 0, none⟩ };
      s.awake = true ∧ s.rx.align + 1 < 64) ∧
      (let s : State := { State.reset with rx := ⟨.down, true, 0, 0, none⟩ };
      s.awake = true ∧ s.rx.state = .down ∧ s.rx.signal = true) ∧
      (let s : State := { linked with rx := ⟨.up, true, 64, 7, some [1]⟩ };
      s.awake = true ∧ s.rx.run = 7) ∧
      (let s : State := { linked with rx := ⟨.up, true, 64, 6, some [1]⟩ };
      s.awake = true ∧ s.rx.run + 1 < 8) ∧
      (¬((0#10 = 0x23C#10 ∨ 0#10 = 0x25B#10 ∨ 0#10 = 0x25D#10) ∨ ∃ b, 0#10 = dataWord b)) ∧ 0x1FF#10 = dataWord 0xFF ∧
      (let s : State := { linked with cmd := ⟨[], List.replicate 4 ⟨0, 1, []⟩, .idle⟩ };
      s.receiving = true ∧ 4 ≤ s.cmd.done.length + s.cmd.waiting.length) := by decide

/-- The end word of a packet: too short, with a wrong check, of a kind that the part does not take, and with each kind's lengths at their ends (R159). -/
theorem witness_LinkWord_end :
    let ends (bytes : List Byte) : State := after (.linkWord 0x25D) { linked with rx := ⟨.up, true, 64, 7, some bytes⟩ }
    let malformed (bytes : List Byte) : Bool := ends bytes == { linked with tx := { linked.tx with stats := { linked.tx.stats with malformed := 1 } } }
    (∀ bytes ∈ [[0x06, 1], [0x06, 1, 0, 0], withCheck [0x02, 1], withCheck [0x01, 0, 7], withCheck [0x06], withCheck [0x06, 1, 1],
      withCheck (0x05 :: List.replicate 17 0), withCheck (0x05 :: List.replicate 19 0)], malformed bytes = true) ∧
      (ends (withCheck [0x01, 0, 7, 1])).cmd.waiting = [⟨7, 1, []⟩] ∧ (ends (withCheck [0x06, 0])).tx.gate = .hold ∧
      (ends (withCheck (0x05 :: List.replicate 18 0))).tx.stats.recalls = 1 := by decide

theorem witness_PacketsByWords : linked.awake = true ∧ (List.replicate 47 (0 : Byte)).length ≤ 47 ∧ recalled.wf = true ∧ (lastOf 0).wf = true := by decide

theorem witness_HoldTimer :
    (let s : State := { State.reset with tx := { Transmitter.reset with hold := some ⟨9, false⟩, holdLimit := 10 } };
      s.awake = true ∧ s.tx.hold = some ⟨9, false⟩) ∧
      (let s : State := { State.reset with tx := { Transmitter.reset with hold := some ⟨10, false⟩, holdLimit := 10 } };
      s.resetLow = false ∧ s.cmd.reset ≠ .due ∧ s.tx.hold = some ⟨10, false⟩ ∧ s.tx.holdLimit ≠ 0 ∧ s.tx.holdLimit ≤ 10) ∧
      State.reset.awake = true ∧ State.reset.tx.hold = none := by decide

/-- A block that holds a buffer of lane 0. -/
def blockOf (item : Item) : Block := ⟨item, 0, 0, true, false, 1, .one, 1, 0, [0, 0, 1], none, none⟩

theorem witness_TransmitStart :
    (linked.awake = true ∧ linked.rx.state = .up ∧ linked.tx.inFlight = none ∧ linked.tx.paceReady = false ∧ linked.cmd.done = [] ∧
      linked.events.notices = [] ∧ linked.memory.queue = [] ∧ State.reset.rx.state ≠ .up) ∧
      (let s : State := { linked with memory := ⟨[], [blockOf 5]⟩ };
      s.awake = true ∧ s.tx.gate = .go ∧ s.memory.queue = blockOf 5 :: []) ∧
      (let s : State := { linked with tx := { linked.tx with paceReady := true }, cmd := ⟨[⟨7, 1, .ok, [], linked.summary⟩], [], .idle⟩ };
      s.awake = true ∧ s.tx.paceReady = true ∧ s.cmd.done = ⟨7, 1, .ok, [], linked.summary⟩ :: []) ∧
      (let s : State := { linked with events := { linked.events with notices := [.status, .event (.routeDone 15) 0] } };
      s.awake = true ∧ s.events.notices = .status :: [.event (.routeDone 15) 0]) := by decide

/-- A packet of each kind in flight; and, with a block of lane 0 in flight, lane 0 waiting for a buffer. -/
theorem witness_PacketSent :
    (∀ p ∈ [Outbound.pace, .reply, .notice .status, .notice (.event (.device .linkStall) 0), .block (blockOf 5)],
      ({ linked with tx := { linked.tx with inFlight := some ⟨p, []⟩ } } : State).awake = true) ∧
      (let s : State := { recording with memory := ⟨[0], []⟩, tx := { linked.tx with inFlight := some ⟨.block (blockOf 5), []⟩ } };
      s.awake = true ∧ s.memory.waiting = [] ++ 0 :: [] ∧ (s.lane 0).item = some (openItem 5) ∧
      ({ s with tx := { s.tx with inFlight := none } } : State).canGrant 0 = true) := by decide

/-! What every step keeps -/

theorem recording_table : recording.RecordsKept ∧ recording.NumbersUnique ∧ recording.QueuesLawful := by
  refine ⟨?_, ?_, ?_⟩
  · unfold State.RecordsKept; decide
  · unfold State.NumbersUnique; decide
  · unfold State.QueuesLawful; decide

theorem recording_items : recording.ItemsLawful := by
  refine ⟨?_, fun c h => absurd h (by show c ∉ []; exact List.not_mem_nil)⟩
  show ∀ l, ∀ o ∈ (recording.lane l).item, _
  have items : ∀ l, ∀ o ∈ (recording.lane l).item, o = openItem 5 := by decide
  intro l o h
  rw [items l o h]
  refine ⟨⟨?_, ?_⟩, fun h => absurd h (by decide)⟩
  · unfold Recording.MarksSorted; decide
  · exact ⟨by decide, ⟨_, rfl, rfl, rfl⟩, List.isChain_singleton _, by decide⟩

theorem recording_lanes : recording.LanesLawful ∧ recording.TransferLawful := by
  refine ⟨?_, ?_⟩
  · have ports : ∀ l, (recording.lane l).port.assembly = .waiting := by decide
    intro l
    refine ⟨?_, ⟨?_, ?_, ?_, ?_, ?_, ?_⟩, ?_⟩
    · unfold Profile.Lawful; revert l; decide
    · revert l; decide
    · revert l; decide
    · revert l; decide
    · revert l; decide
    · rw [ports l]; trivial
    · revert l; decide
    · revert l; decide
  · show ∀ l, ∀ o ∈ (recording.lane l).item, _
    decide

theorem recording_rest : recording.BuffersLawful ∧ linked.LinkLawful ∧ recording.MonitorsLawful := by
  refine ⟨?_, ?_, ?_⟩
  · unfold State.BuffersLawful; decide
  · unfold State.LinkLawful; decide
  · exact ⟨⟨by decide, by decide, by decide, by decide, rfl, rfl⟩, ⟨by decide, by decide, by decide, by decide, rfl, rfl⟩⟩

theorem routed_routes : (routed waitingRoute).RoutesLawful := by
  have only : ∀ q u, (routed waitingRoute).route q = some u → q = 3 ∧ u = waitingRoute := by
    intro q u h
    have e : q = 3 := routed_unique waitingRoute u.item q u h rfl
    subst e
    exact ⟨rfl, Option.some.inj (h.symm.trans (by decide))⟩
  refine ⟨fun r q t u h k _ => (only r t h).1.trans (only q u k).1.symm, fun r t h => ?_⟩
  rw [(only r t h).2]
  exact ⟨by decide, fun _ => ⟨rfl, rfl, rfl⟩, fun h => absurd h (by decide)⟩

/-- The premises of the statements of what every step keeps: a state in order that has a command to execute. -/
theorem witness_Kept :
    (∃ t, step { recording with pending := [.clockLoss 0] } = .next t) ∧
      ({ recording with pending := [.clockLoss 0] } : State).RecordsKept ∧ ({ recording with pending := [.clockLoss 0] } : State).NumbersUnique ∧
      ({ recording with pending := [.clockLoss 0] } : State).QueuesLawful ∧ ({ recording with pending := [.clockLoss 0] } : State).ItemsLawful ∧
      ({ recording with pending := [.clockLoss 0] } : State).LanesLawful ∧ ({ recording with pending := [.clockLoss 0] } : State).TransferLawful ∧
      ({ recording with pending := [.clockLoss 0] } : State).BuffersLawful ∧ ({ recording with pending := [.clockLoss 0] } : State).MonitorsLawful ∧
      ({ linked with pending := [.packetSent] } : State).LinkLawful ∧ ({ routed waitingRoute with pending := [.recallPacket recalled] } : State).RoutesLawful :=
  ⟨⟨_, rfl⟩, recording_table.1, recording_table.2.1, recording_table.2.2, recording_items, recording_lanes.1, recording_lanes.2, recording_rest.1,
    recording_rest.2.2, recording_rest.2.1, routed_routes⟩

theorem witness_ProgrammeTime : opened.SegmentsLawful ∧ (∀ g ∈ opened.segments, 0 < g.ratio.q) ∧ 0 < 48000 := by
  refine ⟨⟨by decide, ⟨_, rfl, rfl, rfl⟩, List.isChain_singleton _, by decide⟩, by decide, by decide⟩

end Sys2Proof.Tests
end

/-! Commands that name a lane, and LANE_GET (R95, R162, R176). -/

namespace Sys2Proof.Machine

/-! ### The early tests of a command -/

@[simp] theorem laneOfNat_val (l : LaneId) : laneOfNat l.val = some l := by
  simp [laneOfNat]

theorem laneOfNat_of_le {n : Nat} (h : 8 ≤ n) : laneOfNat n = none :=
  dif_neg (Nat.not_lt.mpr h)

/-- A command that is about to execute with as many parameter bytes as its row requires is answered by its own tests and effect. -/
theorem command_counted_of_ready {s : State} {c : Command} (hr : s.ready c = true) {n : Nat} (hn : c.params.length = n)
    (body : List Byte → State → Reaction) :
    command s c.code (counted n body) = .next ((body c.params s.takeCommand).reply c) := by
  have taken : command s c.code (counted n body) = .next ((counted n body c.params s.takeCommand).reply c) :=
    command_of_ready hr (mine := (· == c.code)) (beq_self_eq_true c.code) (counted n body)
  rw [taken, counted, if_pos hn]

/-- A lane number in range picks the lane that the command acts on. -/
theorem onLane_of_field {ps : List Byte} {l : LaneId} (h : field ps 0 1 = l.val) (body : LaneId → List Byte → State → Reaction)
    (s : State) : onLane body ps s = body l ps s := by
  simp only [onLane, h, laneOfNat_val]

/-- A lane number beyond 7 is refused before the command's own tests. -/
theorem onLane_of_le {ps : List Byte} (h : 8 ≤ field ps 0 1) (body : LaneId → List Byte → State → Reaction) (s : State) :
    onLane body ps s = refuse s .badLane := by
  simp only [onLane, laneOfNat_of_le h]

/-! ### LANE_GET -/

/-- The rate code's byte is the one-byte number that R92's table gives. -/
theorem rateByte_eq_be (r : Rate) : [rateByte r] = be 1 r.val := rfl

/-- LANE_GET about to execute with its single parameter byte is answered by what it does on the lane named. -/
theorem exec_laneGet {s : State} {tag : BitVec 16} {ps : List Byte} (hr : s.ready ⟨tag, 0x21, ps⟩ = true) (hn : ps.length = 1) :
    exec .laneGet s = .next ((onLane laneGet ps s.takeCommand).reply ⟨tag, 0x21, ps⟩) :=
  command_counted_of_ready hr hn (onLane laneGet)

end Sys2Proof.Machine

namespace Sys2Proof.Proofs

open Sys2Proof.Machine

/-- Settles O17: the reply carries `Profile.bytes`, whose order is R92's, or the refusal of the lane number. -/
theorem laneGet : Obligations.LaneGet := by
  unfold Obligations.LaneGet
  intro s tag ps hr hn
  rw [exec_laneGet hr hn]
  refine ⟨fun l hl => ?_, fun hl => ?_⟩
  · rw [onLane_of_field hl, Machine.laneGet, reply_accept, State.lane_takeCommand]
    unfold Profile.bytes
    rw [rateByte_eq_be]
  · rw [onLane_of_le hl, reply_refuse]

end Sys2Proof.Proofs

/-! ROUTE_READ (R135): its test of the route number, and what it answers. -/

namespace Sys2Proof.Machine

@[simp] theorem routeOfNat_val (r : RouteId) : routeOfNat r.val = some r :=
  dif_pos r.isLt

theorem routeOfNat_of_le {n : Nat} (h : 16 ≤ n) : routeOfNat n = none :=
  dif_neg (Nat.not_lt.mpr h)

@[simp] theorem State.route_takeCommand (s : State) (r : RouteId) : s.takeCommand.route r = s.route r := rfl

/-- ROUTE_READ about to execute with its single parameter byte is answered by what it reads of the route named. -/
theorem exec_routeRead {s : State} {tag : BitVec 16} {ps : List Byte} (hr : s.ready ⟨tag, 0x42, ps⟩ = true) (hn : ps.length = 1) :
    exec .routeRead s = .next ((routeRead ps s.takeCommand).reply ⟨tag, 0x42, ps⟩) :=
  command_counted_of_ready hr hn routeRead

/-- A route number beyond 15 is refused (R135). -/
theorem routeRead_of_le {ps : List Byte} (h : 16 ≤ field ps 0 1) (s : State) : routeRead ps s = refuse s .badParam := by
  simp only [routeRead, routeOfNat_of_le h]

/-- A route number in range is accepted without effect, with the route's bytes as the result (R135). -/
theorem routeRead_of_field {ps : List Byte} {r : RouteId} (h : field ps 0 1 = r.val) (s : State) :
    routeRead ps s = accept s (routeBytes r (s.route r)) := by
  simp only [routeRead, h, routeOfNat_val]

/-- The final exclusive-or of a digest inverts all 32 bits (R122). -/
theorem digestOf_eq_xor (crc : BitVec 32) : digestOf crc = crc ^^^ 0xFFFFFFFF#32 := rfl

end Sys2Proof.Machine

namespace Sys2Proof.Proofs

open Sys2Proof.Machine

/-- Settles O39: the reply carries `routeBytes`, whose order is R178's with each absent field as zeros, or the refusal of the route number. -/
theorem routeRead : Obligations.RouteRead := by
  unfold Obligations.RouteRead
  intro s tag ps hr hn
  rw [exec_routeRead hr hn]
  refine ⟨fun hle => ?beyond, fun r hf => ⟨fun hfree => ?free, fun t ht => ?held⟩⟩
  case beyond => rw [routeRead_of_le hle, reply_refuse]
  case free => rw [routeRead_of_field hf, reply_accept, State.route_takeCommand, hfree]; rfl
  case held =>
    rw [routeRead_of_field hf, reply_accept, State.route_takeCommand, ht]
    unfold routeBytes
    simp only [digestOf_eq_xor]
    -- The layouts agree field by field; only an optional field's bytes depend on its presence.
    congr
    · cases t.expected with
      | none => rfl
      | some d => rfl
    · cases t.format with
      | none => rfl
      | some f => rfl
    · cases t.trailer with
      | none => rfl
      | some tr => rfl

end Sys2Proof.Proofs

/-! PROBE, EVENT_READ and EVENT_FORCE (R165, R166, R168, R169): management over the archive link. -/

namespace Sys2Proof.Machine

/-! ### A wrong number of parameter bytes -/

/-- A command that is about to execute with any other number of parameter bytes than its row requires is refused (R162, test 2). -/
theorem command_miscounted_of_ready {s : State} {c : Command} (hr : s.ready c = true) {n : Nat} (hn : c.params.length ≠ n)
    (body : List Byte → State → Reaction) : command s c.code (counted n body) = .next (s.answered c .badParam) := by
  have taken : command s c.code (counted n body) = .next ((counted n body c.params s.takeCommand).reply c) :=
    command_of_ready hr (mine := (· == c.code)) (beq_self_eq_true c.code) (counted n body)
  rw [taken, counted, if_neg hn, reply_refuse]

/-! ### Single-byte fields -/

/-- A field of one byte is that byte's value, and 0 behind the last byte. -/
theorem field_one (bs : List Byte) (i : Nat) : field bs i 1 = (bs.getD i 0).toNat := by
  have front (cs : List Byte) : beNat (cs.take 1) = (cs.getD 0 0).toNat := by
    cases cs with
    | nil => rfl
    | cons c cs => simp [beNat]
  rw [field, front, List.getD_eq_getElem?_getD, List.getD_eq_getElem?_getD, List.getElem?_drop, Nat.add_zero]

/-! ### The places of flags in their sets -/

theorem LaneEvent.index_lt (e : LaneEvent) : e.index < 5 := by cases e <;> decide

theorem LaneEvent.index_inj {d e : LaneEvent} : d.index = e.index ↔ d = e := by cases d <;> cases e <;> decide

theorem DeviceEvent.index_lt (e : DeviceEvent) : e.index < 3 := by cases e <;> decide

theorem DeviceEvent.index_inj {d e : DeviceEvent} : d.index = e.index ↔ d = e := by cases d <;> cases e <;> decide

/-- A set with one bit cleared. -/
theorem getLsbD_and_not_twoPow {w : Nat} (x : BitVec w) {i j : Nat} (hj : j < w) :
    (x &&& ~~~BitVec.twoPow w i).getLsbD j = (x.getLsbD j && !decide (j = i)) := by
  simp [hj, eq_comm]

/-! ### Clearing flags -/

/-- Clearing a flag clears it and no other (R166). -/
theorem EventUnit.isSet_unmark (ev : EventUnit) (f g : Flag) : (ev.unmark f).isSet g = (ev.isSet g && !decide (g = f)) := by
  cases f with
  | lane l e =>
    cases g with
    | lane k d =>
      by_cases hk : k = l
      · subst hk
        simp only [EventUnit.unmark, EventUnit.isSet, Fin.getElem_fin, Vector.getElem_set_self, Flag.lane.injEq, true_and,
          getLsbD_and_not_twoPow _ d.index_lt, LaneEvent.index_inj]
      · have hlk : l.val ≠ k.val := fun h => hk (Fin.ext h.symm)
        simp [EventUnit.unmark, EventUnit.isSet, Vector.getElem_set_ne, hlk, hk]
    | device d => simp [EventUnit.unmark, EventUnit.isSet]
    | routeDone r => simp [EventUnit.unmark, EventUnit.isSet]
  | device e =>
    cases g with
    | lane k d => simp [EventUnit.unmark, EventUnit.isSet]
    | device d =>
      simp only [EventUnit.unmark, EventUnit.isSet, Flag.device.injEq, getLsbD_and_not_twoPow _ d.index_lt, DeviceEvent.index_inj]
    | routeDone r => simp [EventUnit.unmark, EventUnit.isSet]
  | routeDone r =>
    cases g with
    | lane k d => simp [EventUnit.unmark, EventUnit.isSet]
    | device d => simp [EventUnit.unmark, EventUnit.isSet]
    | routeDone q =>
      simp only [EventUnit.unmark, EventUnit.isSet, Flag.routeDone.injEq, getLsbD_and_not_twoPow _ q.isLt, Fin.ext_iff]

@[simp] theorem EventUnit.unmark_mask (ev : EventUnit) (f : Flag) : (ev.unmark f).mask = ev.mask := by cases f <;> rfl
@[simp] theorem EventUnit.unmark_notices (ev : EventUnit) (f : Flag) : (ev.unmark f).notices = ev.notices := by cases f <;> rfl
@[simp] theorem EventUnit.unmark_cause (ev : EventUnit) (f : Flag) : (ev.unmark f).cause = ev.cause := by cases f <;> rfl

/-- Clearing flags one after another clears those and no others. -/
theorem EventUnit.isSet_unmarkAll (fs : List Flag) (ev : EventUnit) (g : Flag) :
    (fs.foldl unmark ev).isSet g = (ev.isSet g && !decide (g ∈ fs)) := by
  induction fs generalizing ev with
  | nil => simp
  | cons f fs ih => rw [List.foldl_cons, ih, isSet_unmark]; simp [Bool.and_assoc]

/-- Clearing flags keeps the mask, the waiting notices and the reset cause (R166). -/
theorem EventUnit.unmarkAll_keeps (fs : List Flag) (ev : EventUnit) : (fs.foldl unmark ev).mask = ev.mask ∧
    (fs.foldl unmark ev).notices = ev.notices ∧ (fs.foldl unmark ev).cause = ev.cause := by
  induction fs generalizing ev with
  | nil => exact ⟨rfl, rfl, rfl⟩
  | cons f fs ih => simpa using ih (ev.unmark f)

/-! ### Raising flags -/

/-- Raising the flag makes a notice ready: it is clear, the link is UP, its kind is enabled, and none of its notices waits (R165). -/
def EventUnit.readies (ev : EventUnit) (up : Bool) (f : Flag) : Bool :=
  !ev.isSet f && (up && ev.mask.getLsbD f.maskIndex && !ev.hasNotice f)

theorem EventUnit.hasNotice_iff (ev : EventUnit) (f : Flag) : ev.hasNotice f = true ↔ ∃ item, .event f item ∈ ev.notices := by
  unfold EventUnit.hasNotice
  rw [List.any_eq_true]
  constructor
  · rintro ⟨n, hn, hf⟩
    cases n with
    | event g item => exact ⟨item, (beq_iff_eq.mp hf) ▸ hn⟩
    | status => cases hf
  · rintro ⟨item, hn⟩
    exact ⟨_, hn, beq_self_eq_true f⟩

theorem EventUnit.readies_iff (ev : EventUnit) (up : Bool) (f : Flag) : ev.readies up f = true ↔
    ev.isSet f = false ∧ up = true ∧ ev.mask.getLsbD f.maskIndex = true ∧ ∀ item, .event f item ∉ ev.notices := by
  simp only [readies, Bool.and_eq_true, Bool.not_eq_true', and_assoc, ← Bool.not_eq_true (ev.hasNotice f), hasNotice_iff, not_exists]

@[simp] theorem EventUnit.mark_notices (ev : EventUnit) (f : Flag) : (ev.mark f).notices = ev.notices := by cases f <;> rfl

theorem EventUnit.raise_notices (ev : EventUnit) (up : Bool) (f : Flag) (item : Item) :
    (ev.raise up f item).notices = ev.notices ++ if ev.readies up f then [.event f item] else [] := by
  unfold EventUnit.raise EventUnit.readies
  by_cases hset : ev.isSet f = true
  · simp [hset]
  · by_cases hready : (up && ev.mask.getLsbD f.maskIndex && !ev.hasNotice f) = true
    · simp [hset, hready]
    · simp [hset, hready]

/-- A flag raised readies no second notice, and no other flag's notice is affected by it. -/
theorem EventUnit.readies_raise (ev : EventUnit) (up : Bool) (f : Flag) (item : Item) (g : Flag) :
    (ev.raise up f item).readies up g = true ↔ ev.readies up g = true ∧ g ≠ f := by
  rw [readies_iff, readies_iff, isSet_raise, raise_mask, raise_notices]
  by_cases hg : g = f
  · simp [hg]
  · have apart (i : Item) : .event g i ∉ (if ev.readies up f then [Notice.event f item] else []) := by
      split <;> simp [hg]
    simp [hg, apart]

/-- Raising flags one after another, with item number 0, as EVENT_FORCE does (R168). -/
def EventUnit.raiseAll (ev : EventUnit) (up : Bool) (fs : List Flag) : EventUnit := fs.foldl (fun ev f => ev.raise up f 0) ev

@[simp] theorem EventUnit.raiseAll_nil (ev : EventUnit) (up : Bool) : ev.raiseAll up [] = ev := rfl

@[simp] theorem EventUnit.raiseAll_cons (ev : EventUnit) (up : Bool) (f : Flag) (fs : List Flag) :
    ev.raiseAll up (f :: fs) = (ev.raise up f 0).raiseAll up fs := rfl

theorem State.raiseAll_eq (fs : List Flag) (s : State) :
    fs.foldl (fun s f => s.raise f) s = { s with events := s.events.raiseAll s.linkUp fs } := by
  induction fs generalizing s with
  | nil => rfl
  | cons f fs ih => exact ih (s.raise f)

theorem EventUnit.isSet_raiseAll (fs : List Flag) (ev : EventUnit) (up : Bool) (g : Flag) :
    (ev.raiseAll up fs).isSet g = (ev.isSet g || decide (g ∈ fs)) := by
  induction fs generalizing ev with
  | nil => simp
  | cons f fs ih => rw [raiseAll_cons, ih, isSet_raise]; simp [Bool.or_assoc, Bool.beq_eq_decide_eq]

theorem EventUnit.raiseAll_mask (fs : List Flag) (ev : EventUnit) (up : Bool) : (ev.raiseAll up fs).mask = ev.mask := by
  induction fs generalizing ev with
  | nil => rfl
  | cons f fs ih => rw [raiseAll_cons, ih, raise_mask]

theorem EventUnit.raiseAll_cause (fs : List Flag) (ev : EventUnit) (up : Bool) : (ev.raiseAll up fs).cause = ev.cause := by
  induction fs generalizing ev with
  | nil => rfl
  | cons f fs ih => rw [raiseAll_cons, ih, raise_cause]

/-- Raising flags one after another puts one notice, with item number 0, behind the waiting ones for each flag whose raising alone
would: an earlier raise leaves what another flag readies as it was, and a flag repeated readies nothing. -/
theorem EventUnit.raiseAll_notices (fs : List Flag) (ev : EventUnit) (up : Bool) :
    ∃ fresh, (ev.raiseAll up fs).notices = ev.notices ++ fresh ∧ fresh.Nodup ∧
      ∀ n, n ∈ fresh ↔ ∃ f ∈ fs, n = .event f 0 ∧ ev.readies up f = true := by
  induction fs generalizing ev with
  | nil => exact ⟨[], by simp, List.nodup_nil, by simp⟩
  | cons f fs ih =>
    obtain ⟨later, happend, hnodup, hmem⟩ := ih (ev.raise up f 0)
    simp only [readies_raise] at hmem
    rw [raiseAll_cons, happend, raise_notices, List.append_assoc]
    refine ⟨_, rfl, ?nodup, fun n => ?mem⟩
    case nodup =>
      have absent : Notice.event f 0 ∉ later := by
        rw [hmem]
        rintro ⟨g, -, hgf, -, hne⟩
        exact hne (Notice.event.inj hgf).1.symm
      split
      · exact List.nodup_cons.mpr ⟨absent, hnodup⟩
      · exact hnodup
    case mem =>
      rw [List.mem_append, hmem]
      constructor
      · rintro (hfirst | ⟨g, hg, rfl, hready, -⟩)
        · split at hfirst
          · exact ⟨f, List.mem_cons_self, List.mem_singleton.mp hfirst, ‹_›⟩
          · cases hfirst
        · exact ⟨g, List.mem_cons_of_mem f hg, rfl, hready⟩
      · rintro ⟨g, hg, rfl, hready⟩
        by_cases hgf : g = f
        · subst hgf; simp [hready]
        · exact .inr ⟨g, (List.mem_cons.mp hg).resolve_left hgf, rfl, hready, hgf⟩

/-! ### Selections -/

/-- The selection has the flag's bit set in the flag's set. -/
def Selection.names (sel : Selection) : Flag → Bool
  | .lane l e => (sel.lanes.getD l.val 0).getLsbD e.index
  | .device e => sel.device.getLsbD e.index
  | .routeDone r => sel.routes.getLsbD r.val

theorem mem_laneFlags {l : LaneId} {sel : BitVec 5} {f : Flag} :
    f ∈ laneFlags l sel ↔ ∃ e : LaneEvent, sel.getLsbD e.index = true ∧ .lane l e = f := by
  have every (e : LaneEvent) : e ∈ [.lockChange, .quality, .itemOpened, .itemClosed, .overrun] := by cases e <;> decide
  simp only [laneFlags, List.mem_map, List.mem_filter, every, true_and]

/-- The list of a selection's flags holds those whose bits are set. -/
theorem Selection.mem_flags (sel : Selection) (f : Flag) : f ∈ sel.flags ↔ sel.names f = true := by
  have every (e : DeviceEvent) : e ∈ [.linkStall, .commandDropped, .recallUnrouted] := by cases e <;> decide
  simp only [Selection.flags, List.mem_append, List.mem_flatMap, List.mem_finRange, true_and, mem_laneFlags, List.mem_map,
    List.mem_filter, every]
  cases f with
  | lane l e => simp [Selection.names]
  | device e => simp [Selection.names]
  | routeDone r => simp [Selection.names]

/-- The test on the 11 parameter bytes of a selection (R176). -/
theorem selectionValid_iff (ps : List Byte) (hn : ps.length = 11) :
    ((ps.take 8).all (fun b => b.toNat < 32) && decide (field ps 8 1 < 8)) = true ↔ selectionValid ps := by
  rw [Bool.and_eq_true, decide_eq_true_iff, selectionValid, List.all_eq_true]
  refine and_congr_left fun _ => ⟨fun h l => ?_, fun h b hb => ?_⟩
  · have hl : l.val < ps.length := by omega
    rw [field_one, List.getD_eq_getElem _ _ hl]
    exact of_decide_eq_true (h _ (List.mem_take_iff_getElem.mpr ⟨l.val, by omega, rfl⟩))
  · obtain ⟨i, hi, rfl⟩ := List.mem_take_iff_getElem.mp hb
    have hlane := h ⟨i, by omega⟩
    rw [field_one, List.getD_eq_getElem _ _ (by omega)] at hlane
    exact decide_eq_true hlane

/-- A selection whose set bits all name kinds is read, and its list holds the flags that its bytes select. -/
theorem Selection.ofParams_of_valid {ps : List Byte} (hn : ps.length = 11) (hv : selectionValid ps) :
    ∃ sel, Selection.ofParams ps = some sel ∧ ∀ f, f ∈ sel.flags ↔ selects ps f = true := by
  refine ⟨_, if_pos ((selectionValid_iff ps hn).mpr hv), fun f => ?_⟩
  rw [Selection.mem_flags, Bool.coe_iff_coe]
  cases f with
  | lane l e =>
    have hbyte : ((ps.take 8).map fun b => b.setWidth 5).getD l.val 0 = (ps.getD l.val 0).setWidth 5 := by
      have hl : l.val < ps.length := by omega
      simp [hl]
    simp only [Selection.names, selects, hbyte, field_one, BitVec.getLsbD_setWidth, e.index_lt, decide_true, Bool.true_and,
      BitVec.testBit_toNat]
  | device e => simp only [Selection.names, selects, BitVec.getLsbD_ofNat, e.index_lt, decide_true, Bool.true_and]
  | routeDone r => simp only [Selection.names, selects, BitVec.getLsbD_ofNat, r.isLt, decide_true, Bool.true_and]

theorem Selection.ofParams_of_not_valid {ps : List Byte} (hn : ps.length = 11) (hv : ¬selectionValid ps) :
    Selection.ofParams ps = none :=
  if_neg fun h => hv ((selectionValid_iff ps hn).mp h)

/-! ### The flags as bytes -/

theorem EventUnit.length_bytes (ev : EventUnit) : ev.bytes.length = 11 := by simp [EventUnit.bytes]

theorem EventUnit.field_bytes_lane (ev : EventUnit) (l : LaneId) : field ev.bytes l.val 1 = ev.lanes[l].toNat := by
  have hbyte : ev.lanes[l].toNat < 256 := by have := ev.lanes[l].isLt; omega
  have hl : l.val < 8 := l.isLt
  rw [field_one]
  simpa [EventUnit.bytes, List.getElem?_append, hl] using hbyte

theorem EventUnit.field_bytes_device (ev : EventUnit) : field ev.bytes 8 1 = ev.device.toNat := by
  have hbyte : ev.device.toNat < 256 := by have := ev.device.isLt; omega
  rw [field_one]
  simpa [EventUnit.bytes] using hbyte

theorem EventUnit.field_bytes_routes (ev : EventUnit) : field ev.bytes 9 2 = ev.routes.toNat := by
  have front : (ev.lanes.toList.map (fun b => b.setWidth 8) ++ [ev.device.setWidth 8]).length = 9 := by simp
  have behind := field_append (ev.lanes.toList.map (fun b => b.setWidth 8) ++ [ev.device.setWidth 8]) (be 2 ev.routes.toNat) 0 2
  rw [front] at behind
  calc field ev.bytes 9 2 = field (be 2 ev.routes.toNat) 0 2 := behind
    _ = beNat (be 2 ev.routes.toNat) := rfl
    _ = ev.routes.toNat := by rw [beNat_be]; exact Nat.mod_eq_of_lt ev.routes.isLt

/-- The bytes of the flags have the form of a selection (R166). -/
theorem EventUnit.selectionValid_bytes (ev : EventUnit) : selectionValid ev.bytes := by
  refine ⟨fun l => ?_, ?_⟩
  · rw [field_bytes_lane]; exact BitVec.isLt _
  · rw [field_bytes_device]; exact BitVec.isLt _

/-- As a selection, the bytes of the flags select those that are set. -/
theorem EventUnit.selects_bytes (ev : EventUnit) (f : Flag) : selects ev.bytes f = ev.isSet f := by
  cases f with
  | lane l e => rw [selects, field_bytes_lane]; rfl
  | device e => rw [selects, field_bytes_device]; rfl
  | routeDone r => rw [selects, field_bytes_routes]; rfl

/-! ### The commands -/

theorem exec_eventRead {s : State} {tag : BitVec 16} {ps : List Byte} (hr : s.ready ⟨tag, 0x10, ps⟩ = true) (hn : ps.length = 11) :
    exec .eventRead s = .next ((eventRead ps s.takeCommand).reply ⟨tag, 0x10, ps⟩) :=
  command_counted_of_ready hr hn eventRead

theorem exec_eventForce {s : State} {tag : BitVec 16} {ps : List Byte} (hr : s.ready ⟨tag, 0x12, ps⟩ = true) (hn : ps.length = 11) :
    exec .eventForce s = .next ((eventForce ps s.takeCommand).reply ⟨tag, 0x12, ps⟩) :=
  command_counted_of_ready hr hn eventForce

@[simp] theorem State.linkUp_takeCommand (s : State) : s.takeCommand.linkUp = s.linkUp := rfl

/-- An acceptance whose one effect is on the event unit. -/
theorem reply_accept_events (s : State) (e : EventUnit) (c : Command) (r : List Byte) :
    (accept { s.takeCommand with events := e } r).reply c = ({ s with events := e } : State).answered c .ok r := rfl

end Sys2Proof.Machine

namespace Sys2Proof.Proofs

open Sys2Proof.Machine

/-- Settles O10: the selected flags are cleared one after another, and the bytes of the flags read back as they stood. -/
theorem eventReadClears : Obligations.EventReadClears := by
  unfold Obligations.EventReadClears
  intro s tag ps hr hn
  rw [exec_eventRead hr hn]
  refine ⟨fun hv => ?valid, fun hv => ?invalid⟩
  case valid =>
    obtain ⟨sel, hsel, hflags⟩ := Selection.ofParams_of_valid hn hv
    obtain ⟨hmask, hnotices, hcause⟩ := s.events.unmarkAll_keeps sel.flags
    refine ⟨sel.flags.foldl EventUnit.unmark s.events, s.events.bytes, ?_, fun f => ?_, hmask, hnotices, hcause,
      s.events.length_bytes, s.events.selectionValid_bytes, s.events.selects_bytes⟩
    · simp only [eventRead, hsel, State.takeCommand_events, reply_accept_events]
    · simp [EventUnit.isSet_unmarkAll, hflags]
  case invalid => simp only [eventRead, Selection.ofParams_of_not_valid hn hv, reply_refuse]

/-- Settles O12: the selected flags are raised one after another, and the notices made ready are those that each raise alone readies. -/
theorem eventForceRaises : Obligations.EventForceRaises := by
  unfold Obligations.EventForceRaises
  intro s tag ps hr hn
  rw [exec_eventForce hr hn]
  refine ⟨fun hv => ?valid, fun hv => ?invalid⟩
  case valid =>
    obtain ⟨sel, hsel, hflags⟩ := Selection.ofParams_of_valid hn hv
    obtain ⟨fresh, happend, hnodup, hmem⟩ := EventUnit.raiseAll_notices sel.flags s.events s.linkUp
    refine ⟨s.events.raiseAll s.linkUp sel.flags, fresh, ?_, fun f => ?_, EventUnit.raiseAll_mask .., EventUnit.raiseAll_cause ..,
      happend, hnodup, fun n => ?_⟩
    · simp only [eventForce, hsel, State.raiseAll_eq, State.takeCommand_events, State.linkUp_takeCommand, reply_accept_events]
    · simp [EventUnit.isSet_raiseAll, hflags]
    · have hup : s.linkUp = true ↔ s.rx.state = .up := beq_iff_eq
      rw [hmem]
      simp only [hflags, EventUnit.readies_iff, hup]
      exact exists_congr fun f => and_left_comm
  case invalid => simp only [eventForce, Selection.ofParams_of_not_valid hn hv, reply_refuse]

/-- Settles O8: PROBE's body accepts with the identity bytes and no effect. -/
theorem probeAnswers : Obligations.ProbeAnswers := by
  unfold Obligations.ProbeAnswers
  intro s tag ps hr
  refine ⟨fun hnil => ?empty, fun hgiven => ?given⟩
  case empty =>
    have hidentity : identity = [0x57, 0x41, 0x84, 0x20, 0x01, 0x5A, 0x0F, 0x3C, 0x96, 8, 96, 192, 16, 2] := by decide
    have hexec : exec .probe s = .next ((probe ps s.takeCommand).reply ⟨tag, 0x01, ps⟩) :=
      command_counted_of_ready hr (List.length_eq_zero_iff.mpr hnil) probe
    rw [hexec, probe, hidentity, reply_accept]
  case given => exact command_miscounted_of_ready hr (mt List.length_eq_zero_iff.mp hgiven) probe

end Sys2Proof.Proofs

/-! How the records and the item numbers of the table move under every command (R1, R2, R8), and what a step keeps of them. -/

namespace Sys2Proof.Machine

/-! ### Steps and commands -/

/-- What every command keeps, and what does not speak of the model's queue of commands, every step keeps. -/
theorem step_keeps {P : State → Prop} (hp : ∀ s rest, P s → P { s with pending := rest })
    (he : ∀ c s t, P s → exec c s = .next t → P t) (s t : State) (h : P s) (ht : step s = .next t) : P t := by
  unfold step at ht
  split at ht
  case h_1 c rest _ => exact he c _ t (hp s rest h) ht
  case h_2 => exact Host.Outcome.next.inj ht ▸ h

/-- What every evolution of the item table keeps, every command keeps. -/
theorem exec_keeps_of_evolves {P : State → Prop} (hev : ∀ s t, State.Evolves s t → P s → P t) (c : Instr) (s t : State) (h : P s)
    (ht : exec c s = .next t) : P t := by
  obtain ⟨u, hu, hsu⟩ := exec_evolving c s
  have : u = t := Host.Outcome.next.inj (hu.symm.trans ht)
  exact this ▸ hev s u hsu h

/-! ### The non-FREE records -/

/-- What `g` reads of the records that a lane holds, queued or open. -/
def Lane.carried {α : Type} (g : Queued → α) (x : Lane) : List α :=
  x.queue.map g ++ (x.item.map fun o => g o.queued).toList

/-- What `g` reads of the non-FREE records. -/
def State.carried {α : Type} (g : Queued → α) (s : State) : List α :=
  s.lanes.toList.flatMap (Lane.carried g) ++ s.table.closed.map fun c => g c.queued

theorem State.records_eq (s : State) : s.records = s.table.pool ++ s.carried Queued.record :=
  List.append_assoc ..

theorem State.numbers_eq (s : State) : s.numbers = s.carried Queued.item := rfl

theorem State.lanes_toList (s : State) : s.lanes.toList = (List.finRange 8).map s.lane := by
  refine List.ext_getElem (by simp) fun i h _ => ?_
  simp [State.lane]

section
variable {α : Type} (g : Queued → α)

theorem Lane.Quiet.carried {x y : Lane} (h : x.Quiet y) : y.carried g = x.carried g := by
  obtain ⟨hq, -, hi⟩ := h
  obtain ⟨hx, hy⟩ | ⟨o, p, hx, hy, hk⟩ := hi
  · simp [Lane.carried, hq, hx, hy]
  · simp [Lane.carried, hq, hx, hy, hk.1]

theorem Lane.Near.carried {x y : Lane} (h : x.Near y) : y.carried g = x.carried g := h.quiet.carried g

theorem State.carried_of_lanes {s t : State} (h : ∀ k, (t.lane k).carried g = (s.lane k).carried g) :
    t.lanes.toList.flatMap (Lane.carried g) = s.lanes.toList.flatMap (Lane.carried g) := by
  rw [s.lanes_toList, t.lanes_toList, List.flatMap_map, List.flatMap_map]
  exact List.flatMap_congr fun k _ => h k

theorem State.Quiet.carried {s t : State} (h : s.Quiet t) : t.carried g = s.carried g := by
  rw [State.carried, State.carried, State.carried_of_lanes g fun k => (h.2 k).carried g, h.1]

/-- What is read of one lane's records, taken out of two states that agree on the other lanes. -/
theorem State.carried_split {s t : State} {l : LaneId} (h : ∀ k, k ≠ l → (s.lane k).Near (t.lane k)) :
    ∃ rest : Multiset α, (s.carried g : Multiset α) = (s.lane l).carried g + rest + (s.table.closed.map fun c => g c.queued : List α) ∧
      (t.carried g : Multiset α) = (t.lane l).carried g + rest + (t.table.closed.map fun c => g c.queued : List α) := by
  have split (u : State) : (u.lanes.toList.flatMap (Lane.carried g) : Multiset α) =
      (u.lane l).carried g + (((List.finRange 8).erase l).flatMap fun k => (u.lane k).carried g : List α) := by
    rw [u.lanes_toList, List.flatMap_map, Multiset.coe_add, Multiset.coe_eq_coe]
    exact (List.perm_cons_erase (List.mem_finRange l)).flatMap_right _
  have same : ((List.finRange 8).erase l).flatMap (fun k => (t.lane k).carried g) =
      ((List.finRange 8).erase l).flatMap fun k => (s.lane k).carried g :=
    List.flatMap_congr fun k hk => (h k (List.Nodup.mem_erase_iff (List.nodup_finRange 8) |>.mp hk).1).carried g
  refine ⟨(((List.finRange 8).erase l).flatMap fun k => (s.lane k).carried g : List α), ?_, ?_⟩
  · rw [State.carried, ← Multiset.coe_add, split s]
  · rw [State.carried, ← Multiset.coe_add, split t, same]

/-- A close moves the open record to the closed list. -/
theorem State.Closes.carried {l : LaneId} {s t : State} (h : s.Closes l t) : (t.carried g).Perm (s.carried g) := by
  obtain ⟨⟨-, hne⟩, hq, -, hi, -, o, c, ho, hc, hcq, -, -⟩ := h
  obtain ⟨rest, hs, ht⟩ := State.carried_split g hne
  rw [← Multiset.coe_eq_coe, hs, ht]
  simp only [Lane.carried, hq, hi, ho, hc, List.map_append, List.map_singleton, hcq, ← Multiset.coe_add, Option.map, Option.toList,
    Multiset.coe_nil]
  abel

/-- An opening moves the head to the open slot. -/
theorem State.Opens.carried {l : LaneId} {s t : State} (h : s.Opens l t) : (t.carried g).Perm (s.carried g) := by
  obtain ⟨⟨-, hne⟩, -, hi, htab, q, o, hq, ho, hoq, -⟩ := h
  obtain ⟨rest, hs, ht⟩ := State.carried_split g hne
  rw [← Multiset.coe_eq_coe, hs, ht]
  simp only [Lane.carried, hq, hi, ho, hoq, htab, List.map_cons, Option.map, Option.toList, Multiset.coe_nil, ← Multiset.coe_add,
    ← Multiset.cons_coe, ← Multiset.singleton_add (g q)]
  abel

/-- A queueing adds the record. -/
theorem State.Queues.carried {l : LaneId} {q : Queued} {s t : State} (h : s.Queues l q t) : (t.carried g).Perm (g q :: s.carried g) := by
  obtain ⟨-, -, -, -, -, -, -, hc, hq, hi, -, hne⟩ := h
  obtain ⟨rest, hs, ht⟩ := State.carried_split g hne
  rw [← Multiset.coe_eq_coe, ← Multiset.cons_coe, hs, ht]
  simp only [Lane.carried, hq, hi, hc, List.map_append, List.map_cons, List.map_nil, ← Multiset.coe_add, ← Multiset.singleton_add (g q),
    Multiset.coe_singleton]
  abel

/-- A withdrawal takes the record out. -/
theorem State.Withdraws.carried {l : LaneId} {n : Nat} {q : Queued} {s t : State} (h : s.Withdraws l n q t) :
    (s.carried g).Perm (g q :: t.carried g) := by
  obtain ⟨hn, -, hc, hq, hi, -, hne⟩ := h
  obtain ⟨rest, hs, ht⟩ := State.carried_split g hne
  obtain ⟨hlt, rfl⟩ := List.getElem?_eq_some_iff.mp hn
  have out : ((s.lane l).queue : Multiset Queued) = (s.lane l).queue[n] ::ₘ ((s.lane l).queue.eraseIdx n : List Queued) :=
    Multiset.coe_eq_coe.mpr (List.getElem_cons_eraseIdx_perm hlt).symm
  have outs := congrArg (Multiset.map g) out
  rw [Multiset.map_cons, Multiset.map_coe, Multiset.map_coe] at outs
  rw [← Multiset.coe_eq_coe, ← Multiset.cons_coe, hs, ht]
  simp only [Lane.carried, hq, hi, hc, ← Multiset.coe_add, outs, ← Multiset.singleton_add (g _)]
  abel

/-- A release takes the record out. -/
theorem State.Releases.carried {c : ClosedRecord} {s t : State} (h : s.Releases c t) :
    (s.carried g).Perm (g c.queued :: t.carried g) := by
  obtain ⟨⟨a, b, hs, ht⟩, -, hl⟩ := h
  rw [State.carried, State.carried, State.carried_of_lanes g fun k => (hl k).carried g, hs, ht]
  simp only [List.map_append, List.map_cons, ← List.append_assoc]
  exact List.perm_middle

/-- A freed queue takes its records out. -/
theorem State.Frees.carried {l : LaneId} {s t : State} (h : s.Frees l t) :
    (s.carried g).Perm ((s.lane l).queue.map g ++ t.carried g) := by
  obtain ⟨hsi, hti, hq, -, -, hc, hne⟩ := h
  obtain ⟨rest, hs, ht⟩ := State.carried_split g hne
  rw [← Multiset.coe_eq_coe, ← Multiset.coe_add, hs, ht]
  simp only [Lane.carried, hsi, hti, hq, hc, List.map_nil, Option.map, Option.toList, List.append_nil, Multiset.coe_nil, zero_add]
  abel

theorem State.Fresh.carried {t : State} (h : t.Fresh) : t.carried g = [] := by
  obtain ⟨htab, hl⟩ := h
  rw [State.carried, t.lanes_toList, htab]
  simp [ItemTable.reset, Lane.carried, hl]
end

end Sys2Proof.Machine

namespace Sys2Proof.Machine

/-! ### What the evolutions of the table keep -/

/-- The 96 records stay in one collection each (R1). -/
theorem State.Evolves.recordsKept {s t : State} (h : s.Evolves t) (hs : s.RecordsKept) : t.RecordsKept := by
  induction h with
  | @quiet s t h => rwa [State.RecordsKept, t.records_eq, h.carried, h.1, ← s.records_eq]
  | @closes s t l h =>
    have hpool : t.table.pool = s.table.pool := h.2.2.2.2.1
    refine List.Perm.trans ?_ hs
    rw [t.records_eq, s.records_eq, hpool]
    exact (h.carried _).append_left _
  | @opens s t l h =>
    have htab : t.table = s.table := h.2.2.2.1
    refine List.Perm.trans ?_ hs
    rw [t.records_eq, s.records_eq, htab]
    exact (h.carried _).append_left _
  | @queues s t l q h =>
    have hc := h.carried Queued.record
    obtain ⟨-, -, hmem, -, -, -, hpool, -⟩ := h
    refine List.Perm.trans ?_ hs
    rw [t.records_eq, s.records_eq, hpool]
    exact (hc.append_left _).trans (List.perm_middle.trans ((List.perm_cons_erase hmem).symm.append_right _))
  | @withdraws s t l n q h =>
    have hc := h.carried Queued.record
    obtain ⟨-, hpool, -⟩ := h
    refine List.Perm.trans ?_ hs
    rw [t.records_eq, s.records_eq, hpool, List.append_assoc]
    exact hc.symm.append_left _
  | @releases s t c h =>
    have hc := h.carried Queued.record
    obtain ⟨-, hpool, -⟩ := h
    refine List.Perm.trans ?_ hs
    rw [t.records_eq, s.records_eq, hpool, List.append_assoc]
    exact hc.symm.append_left _
  | @frees s t l h =>
    have hc := h.carried Queued.record
    obtain ⟨-, -, -, -, hpool, -⟩ := h
    refine List.Perm.trans ?_ hs
    rw [t.records_eq, s.records_eq, hpool, List.append_assoc]
    exact hc.symm.append_left _
  | fresh h => rw [State.RecordsKept, State.records_eq, h.carried, h.1, List.append_nil]; rfl
  | trans _ _ h k => exact k (h hs)

/-- The non-FREE records keep item numbers of their own, none of them 0 (R2). -/
theorem State.Evolves.numbersUnique {s t : State} (h : s.Evolves t) (hs : s.NumbersUnique) : t.NumbersUnique := by
  have of_perm {u v : State} (hp : (v.carried Queued.item).Perm (u.carried Queued.item)) (hu : u.NumbersUnique) : v.NumbersUnique :=
    ⟨hp.nodup_iff.mpr hu.1, mt hp.mem_iff.mp hu.2⟩
  have of_suffix {u v : State} {xs : List Item} (hp : (u.carried Queued.item).Perm (xs ++ v.carried Queued.item)) (hu : u.NumbersUnique) :
      v.NumbersUnique :=
    ⟨(List.nodup_append.mp (hp.nodup_iff.mp hu.1)).2.1, fun hm => hu.2 (hp.mem_iff.mpr (List.mem_append_right _ hm))⟩
  induction h with
  | quiet h => exact of_perm (.of_eq (h.carried _)) hs
  | closes _ h => exact of_perm (h.carried _) hs
  | opens _ h => exact of_perm (h.carried _) hs
  | @queues s t l q h =>
    have hc := h.carried Queued.item
    obtain ⟨-, -, -, hne, -, hnew, -⟩ := h
    refine ⟨hc.nodup_iff.mpr (List.nodup_cons.mpr ⟨hnew, hs.1⟩), fun hm => ?_⟩
    exact (List.mem_cons.mp (hc.mem_iff.mp hm)).elim (fun e => hne e.symm) hs.2
  | withdraws _ _ _ h => exact of_suffix (xs := [_]) (h.carried _) hs
  | releases _ h => exact of_suffix (xs := [_]) (h.carried _) hs
  | frees _ h => exact of_suffix (h.carried _) hs
  | fresh h => simp [State.NumbersUnique, State.numbers_eq, h.carried]
  | trans _ _ h k => exact k (h hs)

/-- What R8 and R13 say of one lane's queue. -/
def Lane.QueueLawful (x : Lane) : Prop :=
  x.queue.length ≤ Config.queuePlaces ∧ (∀ q ∈ x.queue, q.ends.length = true → 1 ≤ q.target) ∧
    (x.profile.enabled = false → x.item = none ∧ x.queue = [])

theorem Lane.Quiet.queueLawful {x y : Lane} (h : x.Quiet y) (hx : x.QueueLawful) : y.QueueLawful := by
  obtain ⟨hlen, htarget, hoff⟩ := hx
  obtain ⟨hq, he, hi⟩ := h
  refine ⟨hq ▸ hlen, hq ▸ htarget, fun hy => ?_⟩
  have hempty : x.item = none ∧ x.queue = [] := (he hy).elim hoff id
  obtain ⟨-, hy⟩ | ⟨o, -, ho, -, -⟩ := hi
  · exact ⟨hy, hq.trans hempty.2⟩
  · exact absurd (ho.symm.trans hempty.1) (Option.some_ne_none o)

theorem Lane.Near.queueLawful {x y : Lane} (h : x.Near y) (hx : x.QueueLawful) : y.QueueLawful := h.quiet.queueLawful hx

/-- A shorter queue on the same profile is as lawful, when the open slot is filled only on an enabled lane. -/
theorem Lane.QueueLawful.sublist {x y : Lane} (hx : x.QueueLawful) (hq : y.queue.Sublist x.queue) (hp : y.profile = x.profile)
    (hi : x.item = none → x.queue = [] → y.item = none) : y.QueueLawful := by
  obtain ⟨hlen, htarget, hoff⟩ := hx
  refine ⟨hq.length_le.trans hlen, fun q hm => htarget q (hq.subset hm), fun hy => ?_⟩
  obtain ⟨hnone, hnil⟩ := hoff (hp ▸ hy)
  exact ⟨hi hnone hnil, List.sublist_nil.mp (hnil ▸ hq)⟩

/-- The queues stay within R8's bounds. -/
theorem State.Evolves.queuesLawful {s t : State} (h : s.Evolves t) (hs : s.QueuesLawful) : t.QueuesLawful := by
  have with_lane {u v : State} {l : LaneId} (hne : ∀ k, k ≠ l → (u.lane k).Near (v.lane k)) (hl : (v.lane l).QueueLawful)
      (hu : u.QueuesLawful) : v.QueuesLawful := fun k => by
    by_cases hk : k = l
    · exact hk ▸ hl
    · exact (hne k hk).queueLawful (hu k)
  induction h with
  | quiet h => exact fun k => (h.2 k).queueLawful (hs k)
  | @closes s t l h =>
    obtain ⟨⟨-, hne⟩, hq, hp, hi, -⟩ := h
    exact with_lane hne (Lane.QueueLawful.sublist (hs l) (hq ▸ .refl _) hp fun _ _ => hi) hs
  | @opens s t l h =>
    obtain ⟨⟨-, hne⟩, hp, -, -, q, o, hq, -⟩ := h
    exact with_lane hne (Lane.QueueLawful.sublist (hs l) (hq ▸ List.sublist_cons_self ..) hp fun _ hnil => by simp [hq] at hnil) hs
  | @queues s t l q h =>
    obtain ⟨he, hlt, -, -, htarget, -, -, -, hq, -, hp, hne⟩ := h
    obtain ⟨-, htargets, -⟩ := hs l
    refine with_lane hne ⟨?_, fun r hr => ?_, fun hoff => ?_⟩ hs
    · rw [hq, List.length_append]
      exact hlt
    · rw [hq, List.mem_append, List.mem_singleton] at hr
      exact hr.elim (htargets r) fun e => e ▸ htarget
    · exact absurd (he.symm.trans (hp ▸ hoff)) (by decide)
  | @withdraws s t l n q h =>
    obtain ⟨-, -, -, hq, hi, hp, hne⟩ := h
    exact with_lane hne (Lane.QueueLawful.sublist (hs l) (hq ▸ List.eraseIdx_sublist ..) hp fun hnone _ => hi.trans hnone) hs
  | releases _ h => exact fun k => (h.2.2 k).queueLawful (hs k)
  | @frees s t l h =>
    obtain ⟨-, hi, hq, hp, -, -, hne⟩ := h
    exact with_lane hne (Lane.QueueLawful.sublist (hs l) (hq ▸ List.nil_sublist _) hp fun _ _ => hi) hs
  | fresh h =>
    intro k
    obtain ⟨hq, hi, -⟩ := h.2 k
    simp [hq, hi]
  | trans _ _ h k => exact k (h hs)

/-! ### The open and closed items -/

/-- The open item of a lane, if there is one, is in order. -/
def Lane.ItemLawful (x : Lane) : Prop := ∀ o, x.item = some o → o.Lawful

theorem Lane.Quiet.itemLawful {x y : Lane} (h : x.Quiet y) (hx : x.ItemLawful) : y.ItemLawful := by
  intro p hp
  obtain ⟨-, hy⟩ | ⟨o, p', ho, hp', hk⟩ := h.2.2
  · exact absurd (hp.symm.trans hy) (Option.some_ne_none p)
  · exact Option.some.inj (hp'.symm.trans hp) ▸ hk.2 (hx o ho)

theorem Lane.Near.itemLawful {x y : Lane} (h : x.Near y) (hx : x.ItemLawful) : y.ItemLawful := h.quiet.itemLawful hx

theorem State.itemsLawful_iff (s : State) : s.ItemsLawful ↔ (∀ k, (s.lane k).ItemLawful) ∧ ∀ c ∈ s.table.closed, c.record.Lawful :=
  Iff.rfl

/-- The marks and segments of the open and the closed items stay in order. -/
theorem State.Evolves.itemsLawful {s t : State} (h : s.Evolves t) (hs : s.ItemsLawful) : t.ItemsLawful := by
  have with_lane {u v : State} {l : LaneId} (hne : ∀ k, k ≠ l → (u.lane k).Near (v.lane k)) (hl : (v.lane l).ItemLawful)
      (hu : u.ItemsLawful) : ∀ k, (v.lane k).ItemLawful := fun k => by
    by_cases hk : k = l
    · exact hk ▸ hl
    · exact (hne k hk).itemLawful (hu.1 k)
  have none_lawful {x : Lane} (hx : x.item = none) : x.ItemLawful := fun o ho => absurd (ho.symm.trans hx) (Option.some_ne_none o)
  simp only [State.itemsLawful_iff] at *
  induction h with
  | quiet h => exact ⟨fun k => (h.2 k).itemLawful (hs.1 k), h.1 ▸ hs.2⟩
  | @closes s t l h =>
    obtain ⟨⟨-, hne⟩, -, -, hi, -, o, c, ho, hc, -, -, hlaw⟩ := h
    refine ⟨with_lane hne (none_lawful hi) hs, fun r hr => ?_⟩
    rw [hc, List.mem_append, List.mem_singleton] at hr
    exact hr.elim (hs.2 r) fun e => e ▸ hlaw (hs.1 l o ho)
  | @opens s t l h =>
    obtain ⟨⟨-, hne⟩, -, -, htab, q, o, -, ho, -, hlaw⟩ := h
    exact ⟨with_lane hne (fun p hp => Option.some.inj (ho.symm.trans hp) ▸ hlaw) hs, htab ▸ hs.2⟩
  | @queues s t l q h =>
    obtain ⟨-, -, -, -, -, -, -, hc, -, hi, -, hne⟩ := h
    exact ⟨with_lane hne (fun o ho => hs.1 l o (hi ▸ ho)) hs, hc ▸ hs.2⟩
  | @withdraws s t l n q h =>
    obtain ⟨-, -, hc, -, hi, -, hne⟩ := h
    exact ⟨with_lane hne (fun o ho => hs.1 l o (hi ▸ ho)) hs, hc ▸ hs.2⟩
  | @releases s t c h =>
    obtain ⟨⟨a, b, hsc, htc⟩, -, hl⟩ := h
    refine ⟨fun k => (hl k).itemLawful (hs.1 k), fun r hr => hs.2 r ?_⟩
    rw [htc, List.mem_append] at hr
    rw [hsc, List.mem_append, List.mem_cons]
    exact hr.imp id .inr
  | @frees s t l h =>
    obtain ⟨-, hi, -, -, -, hc, hne⟩ := h
    exact ⟨with_lane hne (none_lawful hi) hs, hc ▸ hs.2⟩
  | fresh h => exact ⟨fun k => none_lawful (h.2 k).2.1, by simp [h.1, ItemTable.reset]⟩
  | trans _ _ h k => exact k (h hs)

end Sys2Proof.Machine

namespace Sys2Proof.Proofs

open Sys2Proof.Machine

/-- Settles O53: every command moves records by the moves of R1 alone, and each of those keeps the three invariants. -/
theorem tableKept : Obligations.TableKept :=
  ⟨step_keeps (fun _ _ h => h) (exec_keeps_of_evolves fun _ _ => State.Evolves.recordsKept),
    step_keeps (fun _ _ h => h) (exec_keeps_of_evolves fun _ _ => State.Evolves.numbersUnique),
    step_keeps (fun _ _ h => h) (exec_keeps_of_evolves fun _ _ => State.Evolves.queuesLawful)⟩

/-- Settles O54: an open item is only replaced by one it keeps its order with, and a closed record is the item's last one. -/
theorem itemsKept : Obligations.ItemsKept :=
  step_keeps (fun _ _ h => h) (exec_keeps_of_evolves fun _ _ => State.Evolves.itemsLawful)

end Sys2Proof.Proofs

/-! What the events of a lane are made of, and what of the part they leave alone (R84, R117, R118, R165). -/

namespace Sys2Proof.Machine

/-! ### The parts of a lane event -/

/-- What the events of lane `l` are made of, one part after another: the lane rewritten without its buffer or open slot changing hands, a flag of
the lane raised, a frame delivered live, a frame passed to the open item, a close, and an opening with its request for a buffer. -/
inductive State.Path (l : LaneId) : State → State → Prop
  | refl (s : State) : Path l s s
  | trans {s t u : State} : Path l s t → Path l t u → Path l s u
  | edit (s : State) (x : Lane) : x.hasBuffer = (s.lane l).hasBuffer → x.item.isSome = (s.lane l).item.isSome → Path l s (s.setLane l x)
  | raise (s : State) (e : LaneEvent) (i : Item) : Path l s (s.raise (.lane l e) i)
  | deliver (s : State) (c : Channels) (f : Frame) : Path l s (s.deliverLive l c f)
  | pass (s : State) (f : Frame) : Path l s (s.passFrame l f)
  | close (s : State) (r : CloseReason) : Path l s (s.closeItem l r)
  | opens (s : State) (x : Lane) (o : OpenItem) : (s.lane l).item = none → x.item = some o → o.buffer = none →
      Path l s ((s.setLane l x).requestBuffer l)

section
variable (s : State) (l : LaneId)

theorem Lane.hasBuffer_of_item {x y : Lane} (h : y.item = x.item) : y.hasBuffer = x.hasBuffer := by simp only [Lane.hasBuffer, h]

/-- A lane rewritten outside its open slot. -/
theorem State.path_mapLane (f : Lane → Lane) (hi : (f (s.lane l)).item = (s.lane l).item) : State.Path l s (s.mapLane l f) :=
  .edit s _ (Lane.hasBuffer_of_item hi) (congrArg Option.isSome hi)

/-- The open item rewritten, its buffer aside. -/
theorem State.path_mapItem (f : OpenItem → OpenItem) (hb : ∀ o, (f o).buffer = o.buffer) : State.Path l s (s.mapItem l f) := by
  refine .edit s _ ?_ (by simp)
  simp only [Lane.hasBuffer]
  cases (s.lane l).item <;> simp [hb]

/-! ### What keeps the buffer of the open item -/

/-- From `o` to `p`, the record and the accounting state alone have moved. -/
def OpenItem.Accounts (o p : OpenItem) : Prop := p = { o with record := p.record, accounts := p.accounts }

theorem OpenItem.Accounts.refl (o : OpenItem) : o.Accounts o := rfl

theorem OpenItem.Accounts.trans {o p q : OpenItem} (h : o.Accounts p) (k : p.Accounts q) : o.Accounts q := by
  rw [OpenItem.Accounts, k, h]

theorem OpenItem.Accounts.buffer {o p : OpenItem} (h : o.Accounts p) : p.buffer = o.buffer := by rw [h]

theorem OpenItem.Accounts.dropout {o p : OpenItem} (h : o.Accounts p) : p.dropout = o.dropout := by rw [h]

theorem OpenItem.raiseMark_accounts (o : OpenItem) (m : Mark) : o.Accounts (o.raiseMark m).1 := by
  unfold OpenItem.raiseMark; split <;> rfl

theorem OpenItem.growMark_accounts (o : OpenItem) (r : MarkRef) (f : Mark → Mark) : o.Accounts (o.growMark r f).1 := by
  unfold OpenItem.growMark; split <;> rfl

theorem OpenItem.overloadFrame_accounts (o : OpenItem) (c : FrameCount) (r : RunReport) (p : Option OverloadRun) (a : Bool) :
    o.Accounts (o.overloadFrame (o.record.length - 1) c r p a) := by
  rw [OpenItem.Accounts]
  conv_lhs => rw [(o.overloadFrame_accounted c r p a).1]
  conv_rhs => rw [(o.overloadFrame_accounted c r p a).1]

theorem OpenItem.overloadFrame_length (o : OpenItem) (c : FrameCount) (r : RunReport) (p : Option OverloadRun) (a : Bool) :
    (o.overloadFrame (o.record.length - 1) c r p a).record.length = o.record.length := by
  rw [(o.overloadFrame_accounted c r p a).1]

theorem OpenItem.growSilence_accounts (o : OpenItem) : o.Accounts o.growSilence := by
  unfold OpenItem.growSilence
  split
  · exact (o.growMark_accounts _ _).trans rfl
  · exact .refl o

theorem OpenItem.declare_accounts (o : OpenItem) (c : FrameCount) (d : Option Declaration) : o.Accounts (o.declare c d) := by
  unfold OpenItem.declare
  split
  · exact .refl o
  · split
    · exact (o.raiseMark_accounts _).trans rfl
    · rfl
    · exact .refl o

/-- Steps 4 and 5 of R34 move the record and the accounting state alone, and note that a live frame has been taken. -/
theorem OpenItem.finishFrame_accounts (o : OpenItem) (rep : FrameReport) : ({ o with live := true } : OpenItem).Accounts (o.finishFrame rep) := by
  have ofA := o.overloadFrame_accounts rep.frame.counter rep.detector.reportA rep.detector.runA true
  have length := o.overloadFrame_length rep.frame.counter rep.detector.reportA rep.detector.runA true
  unfold OpenItem.finishFrame
  dsimp only
  generalize o.overloadFrame (o.record.length - 1) rep.frame.counter rep.detector.reportA rep.detector.runA true = a at ofA length ⊢
  have ofB := a.overloadFrame_accounts rep.frame.counter rep.detector.reportB rep.detector.runB false
  rw [length] at ofB
  have all := ((ofA.trans ofB).trans (OpenItem.growSilence_accounts _)).trans
    (OpenItem.declare_accounts _ rep.frame.counter rep.detector.declared)
  rw [OpenItem.Accounts, all]

@[simp] theorem OpenItem.finishFrame_buffer (o : OpenItem) (rep : FrameReport) : (o.finishFrame rep).buffer = o.buffer :=
  (o.finishFrame_accounts rep).buffer

@[simp] theorem OpenItem.finishFrame_dropout (o : OpenItem) (rep : FrameReport) : (o.finishFrame rep).dropout = o.dropout :=
  (o.finishFrame_accounts rep).dropout

@[simp] theorem OpenItem.takeSpeed_buffer (o : OpenItem) : o.takeSpeed.buffer = o.buffer := by
  unfold OpenItem.takeSpeed; split <;> rfl

@[simp] theorem OpenItem.takeSpeed_dropout (o : OpenItem) : o.takeSpeed.dropout = o.dropout := by
  unfold OpenItem.takeSpeed; split <;> rfl

theorem OpenItem.relock_buffer (o : OpenItem) (n ms : Nat) : (o.relock n ms).buffer = o.buffer :=
  (o.raiseMark_accounts _).buffer

/-! ### The cutting engine -/

theorem State.path_passFrames (fs : List Frame) : State.Path l s (fs.foldl (fun s f => s.passFrame l f) s) := by
  induction fs generalizing s with
  | nil => exact .refl s
  | cons f fs ih => exact .trans (.pass s f) (ih _)

theorem State.path_openHead (first : FrameCount) (cs : List Frame) (use : InUse) (hi : (s.lane l).item = none) :
    State.Path l s (s.openHead l first cs use) := by
  unfold State.openHead
  dsimp only
  split
  case h_1 q rest _ =>
    have opened := State.Path.opens s { s.lane l with queue := rest, item := some (OpenItem.begin q use (s.lane l).profile
      (first - BitVec.ofNat 48 (prerollOf q cs).length)) } _ hi rfl rfl
    have pushed := ((opened.trans (State.path_passFrames _ l (prerollOf q cs))).trans
      (State.path_mapItem _ l (fun o => { o with record := o.record.reckon }) fun _ => rfl)).trans (.raise _ .itemOpened q.item)
    refine pushed.trans ?_
    split
    · split
      · exact .close _ _
      · exact .refl _
    · exact .refl _
  case h_2 => exact .refl s

theorem State.path_itemFrame (rep : FrameReport) : State.Path l s (s.itemFrame l rep) := by
  unfold State.itemFrame
  dsimp only
  have taken := ((State.path_mapItem s l OpenItem.takeSpeed fun _ => OpenItem.takeSpeed_buffer _).trans (.pass _ rep.frame)).trans
    (State.path_mapItem _ l (fun o => o.finishFrame rep) fun _ => OpenItem.finishFrame_buffer _ _)
  refine taken.trans ?_
  split
  · split
    · exact .close _ _
    · exact .refl _
  · exact .refl _

theorem State.path_engineFrame (rep : FrameReport) : State.Path l s (s.engineFrame l rep) := by
  unfold State.engineFrame
  split
  · exact .refl s
  · split
    · exact s.path_itemFrame l rep
    case h_2 hi _ =>
      split
      · exact s.path_openHead l _ _ _ hi
      · exact .refl s
    · exact .refl s

theorem State.path_openBefore (n : Nat) (slot : Slot) : State.Path l s (State.openBefore n s l slot) := by
  induction n generalizing s with
  | zero => exact .refl s
  | succ n ih =>
    unfold State.openBefore
    dsimp only
    split
    case isTrue h => exact .trans (s.path_openHead l _ _ _ (Lane.opensBefore_item h)) (ih _)
    · exact .refl s

theorem State.path_loseLock : State.Path l s (s.loseLock l) := by
  unfold State.loseLock
  split
  · split
    · exact .refl s
    · split
      · exact .close s _
      · exact s.path_mapItem l _ fun _ => rfl
  · exact .refl s

theorem State.path_expireDropout : State.Path l s (s.expireDropout l) := by
  unfold State.expireDropout
  split
  · split
    · exact .close s _
    · exact .refl s
  · exact .refl s

theorem State.path_expireOverdue (ms : Nat) : State.Path l s (s.expireOverdue l ms) := by
  unfold State.expireOverdue
  split
  · split
    · exact s.path_expireDropout l
    · exact .refl s
  · exact .refl s

theorem State.path_regainLock (ms : Nat) : State.Path l s (s.regainLock l ms) := by
  refine s.path_mapItem l _ fun o => ?_
  split
  · exact o.relock_buffer _ _
  · rfl

theorem State.path_cueEdge : State.Path l s (s.cueEdge l) := by
  unfold State.cueEdge
  dsimp only
  split
  · exact .refl s
  · split
    · exact .close s _
    · exact .refl s
  case h_3 hi _ =>
    split
    · exact s.path_openHead l _ _ _ hi
    · exact .refl s
  · exact .refl s
  · exact s.path_mapItem l _ fun o => (o.raiseMark_accounts _).buffer
  · exact .refl s

/-! ### The lane port and the cue unit -/

theorem State.path_restartMeasurement : State.Path l s (s.restartMeasurement l) := by
  unfold State.restartMeasurement
  split
  · exact .refl s
  · exact .trans (s.path_mapLane l _ rfl) (.raise _ _ _)
  · exact s.path_mapLane l _ rfl

theorem State.path_endWindow (n t ms : Nat) : State.Path l s (s.endWindow l n t ms) := by
  unfold State.endWindow
  dsimp only
  split
  · exact .refl s
  · refine .trans (s.path_expireOverdue l ms) ?_
    refine .trans (State.path_mapLane _ l (fun x => { x with port :=
      ({ x.port with measured := measuredRate n t } : LanePort).beginWindow x.profile }) rfl) ?_
    split
    · exact .refl _
    · exact .trans (.trans (State.path_mapLane _ l _ rfl) (.raise _ .lockChange 0)) (State.path_loseLock _ l)
    · exact .trans (.trans (State.path_mapLane _ l _ rfl) (.raise _ .lockChange 0)) (State.path_regainLock _ l ms)
    · exact State.path_mapLane _ l _ rfl

theorem State.path_loseClock : State.Path l s (s.loseClock l) := by
  unfold State.loseClock
  dsimp only
  split
  · exact .refl s
  · exact .trans (.trans (State.path_mapLane s l _ rfl) (.raise _ .lockChange 0)) (State.path_loseLock _ l)
  · exact s.path_mapLane l _ rfl

theorem State.path_takeSlot (slot : Slot) : State.Path l s (s.takeSlot l slot) := by
  unfold State.takeSlot
  dsimp only
  have taken : State.Path l s (s.setLane l ((s.lane l).afterTaking slot)) := .edit s _ rfl rfl
  have judged : State.Path l s (if (s.lane l).passesQuality slot then (s.setLane l ((s.lane l).afterTaking slot)).raise (.lane l .quality)
      else s.setLane l ((s.lane l).afterTaking slot)) := by
    split
    · exact taken.trans (.raise _ _ _)
    · exact taken
  have delivered := judged.trans (.deliver _ (s.lane l).inUse.channels ((s.lane l).frameTaken slot))
  split
  · exact delivered.trans (State.path_restartMeasurement _ l)
  · exact delivered

theorem State.path_slotArrives (slot : Slot) : State.Path l s (s.slotArrives l slot) := by
  unfold State.slotArrives
  dsimp only
  split
  · exact .trans (.trans (s.path_openBefore l _ slot) (State.path_takeSlot _ l slot)) (State.path_engineFrame _ l _)
  · have fed : State.Path l s (s.setLane l { s.lane l with port := ((s.lane l).arrive slot).port }) := .edit s _ rfl rfl
    split
    · exact fed.trans (.trans (State.path_restartMeasurement _ l) (.close _ _))
    · exact fed

theorem State.path_endDebounce : State.Path l s (s.endDebounce l) := by
  unfold State.endDebounce
  dsimp only
  split
  · refine .trans (s.path_mapLane l (fun x => { x with cue := { x.cue with level := x.cue.low, running := none } }) rfl) ?_
    split
    · exact State.path_cueEdge _ l
    · exact .refl _
  · exact .refl s

end

end Sys2Proof.Machine

namespace Sys2Proof.Machine

/-! ### What a lane event leaves alone -/

/-- From `s` to `t`, lane `l` alone has been at work: it has raised flags of its own, filed records, sent blocks of its own, and let other lanes be granted
the buffer that they waited for; a monitor port may have been delivered a live frame of the lane. -/
structure State.Local (l : LaneId) (s t : State) : Prop where
  far : s.Far t
  pool : t.table.pool = s.table.pool
  closed : s.table.closed <+: t.table.closed
  queue : ∃ blocks, t.memory.queue = s.memory.queue ++ blocks ∧ ∀ b ∈ blocks, b.lane = l
  waiting : ∀ k, k ≠ l → k ∈ t.memory.waiting → k ∈ s.memory.waiting
  events : ∃ raised : List (LaneEvent × Item), t.events = raised.foldl (fun ev r => ev.raise s.linkUp (.lane l r.1) r.2) s.events
  others : ∀ k, k ≠ l → s.Granted k (t.lane k)
  monitors : ∀ id, t.monitor id = { s.monitor id with live := (t.monitor id).live } ∧
    ((s.monitor id).source ≠ .lane l → t.monitor id = s.monitor id)

theorem State.monitor_congr {s t : State} (ha : t.monA = s.monA) (hb : t.monB = s.monB) (id : MonitorId) : t.monitor id = s.monitor id := by
  cases id
  · exact ha
  · exact hb

theorem State.Local.refl (l : LaneId) (s : State) : State.Local l s s where
  far := .refl s
  pool := rfl
  closed := List.prefix_rfl
  queue := ⟨[], (List.append_nil _).symm, nofun⟩
  waiting _ _ h := h
  events := ⟨[], rfl⟩
  others _ _ := .inl rfl
  monitors _ := ⟨rfl, fun _ => rfl⟩

theorem State.Far.linkUp {s t : State} (h : s.Far t) : t.linkUp = s.linkUp := by rw [State.linkUp, State.linkUp, h.2.1]

theorem State.Local.trans {l : LaneId} {s t u : State} (h : State.Local l s t) (k : State.Local l t u) : State.Local l s u where
  far := h.far.trans k.far
  pool := k.pool.trans h.pool
  closed := h.closed.trans k.closed
  queue := by
    obtain ⟨bs, hbs, hl⟩ := h.queue
    obtain ⟨cs, hcs, kl⟩ := k.queue
    exact ⟨bs ++ cs, by rw [hcs, hbs, List.append_assoc], fun b hb => (List.mem_append.mp hb).elim (hl b) (kl b)⟩
  waiting m hm hu := h.waiting m hm (k.waiting m hm hu)
  events := by
    obtain ⟨rs, hrs⟩ := h.events
    obtain ⟨qs, hqs⟩ := k.events
    exact ⟨rs ++ qs, by rw [hqs, hrs, h.far.linkUp, List.foldl_append]⟩
  others m hm := by
    rcases k.others m hm with e | ⟨o, ho, hw, e⟩
    · exact e ▸ h.others m hm
    · rcases h.others m hm with f | ⟨p, hp, hw', f⟩
      · exact .inr ⟨o, f ▸ ho, h.waiting m hm hw, by rw [e, f]⟩
      · rw [f] at ho
        exact .inr ⟨p, hp, hw', by rw [e, f, ← Option.some.inj ho]⟩
  monitors id := by
    obtain ⟨hlive, hsame⟩ := h.monitors id
    obtain ⟨klive, ksame⟩ := k.monitors id
    refine ⟨?_, fun hs => ?_⟩
    · conv_lhs => rw [klive, hlive]
    · have hid := hsame hs
      rw [ksame (hid ▸ hs), hid]

/-- What moves the lane alone, with the flags it raises, is local. -/
theorem State.local_of_lane {l : LaneId} {s t : State} (hf : s.Far t) (ht : t.table = s.table) (hm : t.memory = s.memory)
    (he : ∃ raised : List (LaneEvent × Item), t.events = raised.foldl (fun ev r => ev.raise s.linkUp (.lane l r.1) r.2) s.events)
    (hl : ∀ k, k ≠ l → t.lane k = s.lane k) (ha : t.monA = s.monA) (hb : t.monB = s.monB) : State.Local l s t where
  far := hf
  pool := congrArg ItemTable.pool ht
  closed := ht ▸ List.prefix_rfl
  queue := ⟨[], by rw [hm, List.append_nil], nofun⟩
  waiting _ _ h := hm ▸ h
  events := he
  others k hk := .inl (hl k hk)
  monitors id := ⟨by rw [State.monitor_congr ha hb], fun _ => State.monitor_congr ha hb id⟩

theorem State.setLane_local (s : State) (l : LaneId) (x : Lane) : State.Local l s (s.setLane l x) :=
  State.local_of_lane (.refl s) rfl rfl ⟨[], rfl⟩ (fun _ hk => s.lane_setLane_ne x hk) rfl rfl

theorem State.raise_local (s : State) (l : LaneId) (e : LaneEvent) (i : Item) : State.Local l s (s.raise (.lane l e) i) :=
  State.local_of_lane (.refl s) rfl rfl ⟨[(e, i)], rfl⟩ (fun _ _ => rfl) rfl rfl

theorem Monitor.deliver_live (m : Monitor) (l : LaneId) (c : Channels) (f : Frame) :
    m.deliver l c f = { m with live := (m.deliver l c f).live } ∧ (m.source ≠ .lane l → m.deliver l c f = m) := by
  unfold Monitor.deliver
  split
  case isTrue h => exact ⟨rfl, absurd h⟩
  case isFalse => exact ⟨rfl, fun _ => rfl⟩

theorem State.deliverLive_local (s : State) (l : LaneId) (c : Channels) (f : Frame) : State.Local l s (s.deliverLive l c f) :=
  { State.Local.refl l s with
    monitors := fun id => match id with
      | .a => s.monA.deliver_live l c f
      | .b => s.monB.deliver_live l c f }

/-- A lane that joins the waiting-lane list is the lane itself. -/
theorem State.startWaiting_local (s : State) (l : LaneId) : State.Local l s (s.startWaiting l) :=
  { State.Local.refl l s with
    queue := ⟨[], (List.append_nil _).symm, nofun⟩
    waiting := fun k hk hw => by simpa [State.startWaiting, hk] using hw }

theorem State.requestBuffer_local (s : State) (l : LaneId) : State.Local l s (s.requestBuffer l) := by
  unfold State.requestBuffer
  split
  · exact .refl l s
  · split
    · exact s.setLane_local l _
    · exact s.startWaiting_local l

/-- A frame passed to the open item moves the lane, the block memory and the events alone. -/
theorem State.ItemTakes.isLocal {s t : State} {l : LaneId} {f : Frame} {o p : OpenItem} (h : s.ItemTakes t l f o p) :
    State.Local l s t := by
  obtain ⟨ht, -, -, hplaced, hlost, hev, -⟩ := h
  have events : ∃ raised : List (LaneEvent × Item),
      t.events = raised.foldl (fun ev r => ev.raise s.linkUp (.lane l r.1) r.2) s.events := by
    rw [hev]
    split
    · exact ⟨[(.overrun, 0)], rfl⟩
    · exact ⟨[], rfl⟩
  have memory : (∃ blocks, t.memory.queue = s.memory.queue ++ blocks ∧ ∀ b ∈ blocks, b.lane = l) ∧
      ∀ k, k ≠ l → k ∈ t.memory.waiting → k ∈ s.memory.waiting := by
    cases hp : o.buffer.isSome || (!s.memory.waiting.contains l && s.canGrant l) with
    | true =>
      obtain ⟨hw, -, hroom, hfull⟩ := hplaced hp
      refine ⟨?_, fun k _ hk => hw ▸ hk⟩
      rcases Nat.lt_or_ge ((o.buffer.getD ⟨0, 0, []⟩).frames + 1) o.blockSize with hlt | hge
      · exact ⟨[], by rw [(hroom hlt).2.2, List.append_nil], nofun⟩
      · exact ⟨_, (hfull hge).2.2, by simp⟩
    | false =>
      obtain ⟨-, -, -, hq, hw⟩ := hlost hp
      refine ⟨⟨[], by rw [hq, List.append_nil], nofun⟩, fun k hne hk => ?_⟩
      rw [hw] at hk
      split at hk
      · exact hk
      · simpa [hne] using hk
  refine { far := ?_, pool := ?_, closed := ?_, queue := memory.1, waiting := memory.2, events := events, others := ?_, monitors := ?_ }
  · rw [ht]; exact .refl s
  · rw [ht]; rfl
  · rw [ht]; exact List.prefix_rfl
  · intro k hk
    refine .inl ?_
    rw [ht, State.lane_setLane_ne _ _ hk]
    rfl
  · intro id
    rw [ht]
    cases id <;> exact ⟨rfl, fun _ => rfl⟩

theorem State.passFrame_local (s : State) (l : LaneId) (f : Frame) : State.Local l s (s.passFrame l f) := by
  cases ho : (s.lane l).item with
  | none => simpa only [State.passFrame, ho] using State.Local.refl l s
  | some o =>
    obtain ⟨p, hp⟩ := s.passFrame_takes l f ho
    exact hp.isLocal

theorem State.WaitingAfterClose.sublist {s t : State} {l : LaneId} {o : OpenItem} (h : s.WaitingAfterClose t l o) :
    t.memory.waiting.Sublist s.memory.waiting := by
  cases hb : o.buffer with
  | none => exact h.1 hb ▸ List.filter_sublist
  | some b =>
    obtain ⟨kept, freed⟩ := h.2 b hb
    by_cases hz : b.frames = 0
    · exact (freed hz).1
    · exact kept hz ▸ .refl _

theorem State.ItemCloses.isLocal {s t : State} {l : LaneId} {o : OpenItem} {r : CloseReason} (h : s.ItemCloses t l o r) :
    State.Local l s t := by
  obtain ⟨-, -, -, -, hw, hev, ⟨htx, hrx, hro, hrl, hfd, hpe, hpool, hclosed, hq, -, -, -, hothers⟩, hcmd, ha, hb⟩ := h
  exact {
    far := ⟨htx, hrx, hcmd, hro, hrl, hfd, hpe⟩
    pool := hpool
    closed := hclosed
    queue := hq
    waiting := fun k _ hk => hw.sublist.subset hk
    events := ⟨[(.itemClosed, o.queued.item)], hev⟩
    others := hothers
    monitors := fun id => ⟨by rw [State.monitor_congr ha hb], fun _ => State.monitor_congr ha hb id⟩ }

theorem State.closeItem_local (s : State) (l : LaneId) (r : CloseReason) : State.Local l s (s.closeItem l r) := by
  cases ho : (s.lane l).item with
  | none => simpa only [State.closeItem, ho] using State.Local.refl l s
  | some o => exact (s.closeItem_itemCloses l r ho).isLocal

theorem State.Path.isLocal {l : LaneId} {s t : State} (h : State.Path l s t) : State.Local l s t := by
  induction h with
  | refl s => exact .refl l s
  | trans _ _ h k => exact h.trans k
  | edit s x _ _ => exact s.setLane_local l x
  | raise s e i => exact s.raise_local l e i
  | deliver s c f => exact s.deliverLive_local l c f
  | pass s f => exact s.passFrame_local l f
  | close s r => exact s.closeItem_local l r
  | opens s x o _ _ _ => exact (s.setLane_local l x).trans (State.requestBuffer_local _ l)

/-! ### The events of a local step -/

/-- The flags that a lane raises leave the mask, the cause and every other flag. -/
theorem EventUnit.raises_keep (l : LaneId) (up : Bool) (raised : List (LaneEvent × Item)) (ev : EventUnit) :
    let e := raised.foldl (fun ev r => ev.raise up (.lane l r.1) r.2) ev
    e.mask = ev.mask ∧ e.cause = ev.cause ∧ ∀ f, (∀ d, f ≠ .lane l d) → e.isSet f = ev.isSet f := by
  induction raised generalizing ev with
  | nil => exact ⟨rfl, rfl, fun _ _ => rfl⟩
  | cons r rs ih =>
    obtain ⟨hm, hc, hf⟩ := ih (ev.raise up (.lane l r.1) r.2)
    refine ⟨hm.trans (ev.raise_mask ..), hc.trans (ev.raise_cause ..), fun f hne => (hf f hne).trans ?_⟩
    rw [ev.isSet_raise, beq_eq_false_iff_ne.mpr (hne r.1), Bool.or_false]

theorem State.Local.aside {l : LaneId} {s t : State} (h : State.Local l s t) : s.Aside t l := by
  obtain ⟨htx, hrx, -, hro, hrl, hfd, hpe⟩ := h.far
  obtain ⟨raised, hev⟩ := h.events
  obtain ⟨hm, hc, hf⟩ := EventUnit.raises_keep l s.linkUp raised s.events
  exact ⟨htx, hrx, hro, hrl, hfd, hpe, h.pool, h.closed, h.queue, hev ▸ hm, hev ▸ hc, hev ▸ hf, h.others⟩

end Sys2Proof.Machine

/-! What every command keeps: a predicate is kept by all of them when each of the shared operations that they are made of keeps it. -/

namespace Sys2Proof.Machine

/-! ### The operations that the commands are made of -/

/-- The resets of the part keep `P`. -/
structure ResetsKeep (P : State → Prop) : Prop where
  resetAll (s held cause) : P s → P (s.resetAll held cause)
  deviceReset (s) : P s → P s.deviceReset

/-- The events of the lanes keep `P`. -/
structure LaneEventsKeep (P : State → Prop) : Prop where
  slotArrives (s l slot) : P s → P (State.slotArrives s l slot)
  endWindow (s l n t ms) : P s → P (State.endWindow s l n t ms)
  loseClock (s l) : P s → P (State.loseClock s l)
  expireDropout (s l) : P s → P (State.expireDropout s l)
  endDebounce (s l) : P s → P (State.endDebounce s l)
  cue (s l) (f : Lane → CueUnit) : P s → P (State.mapLane s l fun x => { x with cue := f x })

/-- The events of the link, the routes and the monitor ports keep `P`. -/
structure LinkEventsKeep (P : State → Prop) : Prop where
  signal (s : State) (b) : s.resetLow = true → P s → P { s with rx := { s.rx with signal := b } }
  signalAppears (s) : P s → P (State.signalAppears s)
  signalLost (s) : P s → P (State.signalLost s)
  receiveWord (s w) : P s → P (State.receiveWord s w)
  dropPacket (s : State) : P s → P { s with rx := { s.rx with packet := none } }
  receiveCommand (s c) : P s → P (State.receiveCommand s c)
  receiveRecall (s) (p : RecallPacket) : p.payload.length = p.frames.toNat * p.channels.toNat * 3 → P s → P (State.receiveRecall s p)
  receiveGate (s g) : P s → P (State.receiveGate s g)
  countMalformed (s) : P s → P (State.countMalformed s)
  idleOut (s r) : P s → P (State.idleOut s r)
  takeHoldLimit (s) : P s → P (State.takeHoldLimit s)
  holdTick (s) : P s → P (State.holdTick s)
  transmit (s) : P s → P (State.transmit s)
  complete (s) : P s → P (State.complete s)
  outputFrame (s id) : P s → P (State.outputFrame s id)

/-- The commands on lanes and items keep `Q`. -/
structure LaneCommandsKeep (Q : State → Prop) : Prop where
  laneSet (l ps s) : Q s → Q (laneSet l ps s).state
  laneStatus (l ps s) : Q s → Q (laneStatus l ps s).state
  laneReset (l ps s) : Q s → Q (laneReset l ps s).state
  speedSet (l ps s) : Q s → Q (speedSet l ps s).state
  inject (l ps s) : Q s → Q (inject l ps s).state
  itemQueue (l ps s) : Q s → Q (itemQueue l ps s).state
  itemWithdraw (ps s) : Q s → Q (itemWithdraw ps s).state
  itemStart (ps s) : Q s → Q (itemStart ps s).state
  closeByCommand (r ps s) : Q s → Q (closeByCommand r ps s).state
  itemMark (ps s) : Q s → Q (itemMark ps s).state
  itemRelease (ps s) : Q s → Q (itemRelease ps s).state

/-- The commands on the part, the events, the routes and the monitor ports keep `Q`. -/
structure PartCommandsKeep (Q : State → Prop) : Prop where
  deviceResetCommand (ps s) : Q s → Q (deviceResetCommand ps s).state
  linkStats (ps s) : Q s → Q (linkStats ps s).state
  eventRead (ps s) : Q s → Q (eventRead ps s).state
  eventMask (ps s) : Q s → Q (eventMask ps s).state
  eventForce (ps s) : Q s → Q (eventForce ps s).state
  routeSet (ps s) : Q s → Q (routeSet ps s).state
  routeClear (ps s) : Q s → Q (routeClear ps s).state
  monitorSelect (ps s) : Q s → Q (monitorSelect ps s).state
  monitorStatus (ps s) : Q s → Q (monitorStatus ps s).state

/-- `Q` holds while a command is executed where `P` holds between the commands: it begins when the command is taken and ends with its reply. -/
structure Executes (P Q : State → Prop) : Prop where
  take (s : State) {c rest} : P s → s.cmd.waiting = c :: rest → Q s.takeCommand
  reply (r : Reaction) (c) : Q r.state → P (r.reply c)

/-- What does not speak of the command unit holds during a command as it does between them. -/
theorem executes_of_cmd {P : State → Prop} (h : ∀ (s : State) (u : CommandUnit), P s → P { s with cmd := u }) : Executes P P where
  take s _ _ hs _ := h s _ hs
  reply r _ hr := h r.state _ hr

/-! ### Every command -/

/-- The outcome is a next state that meets `P`. -/
def Answers (P : State → Prop) (o : Host.Outcome State Fault Refusal) : Prop := ∃ t, o = .next t ∧ P t

section
variable {P Q : State → Prop}

theorem counted_keeps {n : Nat} {body : List Byte → State → Reaction} (h : ∀ ps s, Q s → Q (body ps s).state) (ps : List Byte)
    (s : State) (hs : Q s) : Q (counted n body ps s).state := by
  unfold counted
  split
  · exact h ps s hs
  · exact hs

theorem onLane_keeps {body : LaneId → List Byte → State → Reaction} (h : ∀ l ps s, Q s → Q (body l ps s).state) (ps : List Byte)
    (s : State) (hs : Q s) : Q (onLane body ps s).state := by
  unfold onLane
  split
  · exact h _ ps s hs
  · exact hs

theorem ResetsKeep.takeReset (h : ResetsKeep P) (s : State) (hs : P s) : P s.takeReset := by
  unfold State.takeReset
  split
  · exact h.deviceReset s hs
  · exact hs

theorem settle_keeps (h : ResetsKeep P) (k : LinkEventsKeep P) (s : State) (hs : P s) : P s.settle :=
  k.takeHoldLimit _ (h.takeReset s hs)

theorem running_keeps (h : ResetsKeep P) (k : LinkEventsKeep P) {f : State → State} (hf : ∀ s, P s → P (f s)) (s : State) (hs : P s) :
    Answers P (running s f) := by
  refine ⟨_, rfl, ?_⟩
  split
  · exact hs
  · exact hf _ (settle_keeps h k s hs)

theorem runCommand_keeps (e : Executes P Q) {mine : Byte → Bool} {body : List Byte → State → Reaction}
    (hb : ∀ ps s, Q s → Q (body ps s).state) (s : State) (hs : P s) : P (s.runCommand mine body) := by
  unfold State.runCommand
  split
  case h_1 hw =>
    split
    · exact e.reply _ _ (hb _ _ (e.take s hs hw))
    · exact hs
  case h_2 => exact hs

theorem wholePacket_keeps (k : LinkEventsKeep P) {dispatch : State → State} (hd : ∀ s, P s → P (dispatch s)) (s : State) (hs : P s) :
    P (s.wholePacket dispatch) := by
  unfold State.wholePacket
  dsimp only
  split
  · exact hd _ (k.dropPacket _ (k.receiveWord s _ hs))
  · exact k.receiveWord s _ hs

theorem malformed_keeps (k : LinkEventsKeep P) (cause : Malformation) (s : State) (hs : P s) : P (s.malformed cause) := by
  have cut (w : LinkWord) : P ((s.receiveWord .start).receiveWord w) := k.receiveWord _ w (k.receiveWord s .start hs)
  have whole : P (s.wholePacket State.countMalformed) := wholePacket_keeps k k.countMalformed s hs
  cases cause with
  | badCheck => exact whole
  | unknownKind => exact whole
  | badLength => exact whole
  | idleWordInside => exact cut .idle
  | unrecognisedWordInside => exact cut .unrecognised
  | startWordInside => exact cut .start

/-- Every command answers a next state, which meets `P` when the operations that the commands are made of keep it. -/
theorem exec_keeps (hr : ResetsKeep P) (hl : LaneEventsKeep P) (hk : LinkEventsKeep P) (e : Executes P Q) (hc : LaneCommandsKeep Q)
    (hp : PartCommandsKeep Q) (c : Instr) (s : State) (hs : P s) : Answers P (exec c s) := by
  have event {f : State → State} (hf : ∀ s, P s → P (f s)) : Answers P (running s f) := running_keeps hr hk hf s hs
  have cmd {code : Byte} {body : List Byte → State → Reaction} (hb : ∀ ps s, Q s → Q (body ps s).state) :
      Answers P (command s code body) := event (runCommand_keeps e hb)
  have fixed {code : Byte} {n : Nat} {body : List Byte → State → Reaction} (hb : ∀ ps s, Q s → Q (body ps s).state) :
      Answers P (command s code (counted n body)) := cmd (counted_keeps hb)
  have onlane {code : Byte} {n : Nat} {body : LaneId → List Byte → State → Reaction} (hb : ∀ l ps s, Q s → Q (body l ps s).state) :
      Answers P (command s code (counted n (onLane body))) := fixed (onLane_keeps hb)
  have slot (l : LaneId) (slot : Slot) (p : State → Prop) [DecidablePred p] : Answers P (running s fun s => if p s then s.slotArrives l slot else s) :=
    event fun u hu => by
      split
      · exact hl.slotArrives u l slot hu
      · exact hu
  have either {a b : State} (ha : s.resetLow = true → P a) (hb : P b) : Answers P (.next (if s.resetLow then a else b)) := by
    refine ⟨_, rfl, ?_⟩
    split
    case isTrue h => exact ha h
    case isFalse => exact hb
  have same : ∀ (ps : List Byte) (u : State), Q u → Q u := fun _ _ hu => hu
  cases c with
  | probe => exact fixed same
  | deviceReset => exact fixed hp.deviceResetCommand
  | deviceResetEffect => exact either (fun _ => hs) (hr.takeReset s hs)
  | linkStats => exact fixed hp.linkStats
  | eventRead => exact fixed hp.eventRead
  | eventMask => exact fixed hp.eventMask
  | eventForce => exact fixed hp.eventForce
  | laneSet => exact onlane hc.laneSet
  | laneGet => exact onlane fun _ => same
  | laneStatus => exact onlane hc.laneStatus
  | laneReset => exact onlane hc.laneReset
  | speedSet => exact onlane hc.speedSet
  | inject => exact onlane hc.inject
  | itemQueue =>
    refine cmd fun ps u hu => ?_
    split
    · exact onLane_keeps hc.itemQueue ps u hu
    · exact hu
  | itemWithdraw => exact fixed hc.itemWithdraw
  | itemStart => exact fixed hc.itemStart
  | itemEnd => exact fixed (hc.closeByCommand _)
  | itemAbandon => exact fixed (hc.closeByCommand _)
  | itemMark => exact fixed hc.itemMark
  | itemRead =>
    refine fixed fun ps u hu => ?_
    unfold itemRead
    split <;> exact hu
  | itemRelease => exact fixed hc.itemRelease
  | tableStatus => exact fixed same
  | routeSet => exact fixed hp.routeSet
  | routeClear => exact fixed hp.routeClear
  | routeRead =>
    refine fixed fun ps u hu => ?_
    unfold routeRead
    split <;> exact hu
  | monitorSelect => exact fixed hp.monitorSelect
  | monitorStatus => exact fixed hp.monitorStatus
  | powerOn => exact ⟨_, rfl, hr.resetAll s _ _ hs⟩
  | resetLineAssert => exact ⟨_, rfl, hr.resetAll s _ _ hs⟩
  | resetLineRelease => exact either (fun _ => hr.resetAll s _ _ hs) hs
  | arrivingFrame l a => exact event fun u => hl.slotArrives u l a
  | injectionCountdownEnd l a => exact slot l a fun u => (u.lane l).port.lock = .locked ∧ (u.lane l).port.injection = 1
  | detectorWindowEnd l a => exact slot l a fun u => (u.lane l).port.lock = .locked ∧ (u.lane l).windowEnding
  | rateWindowEnd l n t ms => exact event fun u => hl.endWindow u l n t ms
  | clockLoss l => exact event fun u => hl.loseClock u l
  | dropoutExpiry l => exact event fun u => hl.expireDropout u l
  | cueLineChange l low => exact either (fun _ => hl.cue s l _ hs) (hl.cue _ l _ (settle_keeps hr hk s hs))
  | cueDebounceEnd l => exact event fun u => hl.endDebounce u l
  | linkSignalAppear => exact either (fun h => hk.signal s true h hs) (hk.signalAppears _ (settle_keeps hr hk s hs))
  | linkSignalLost => exact either (fun h => hk.signal s false h hs) (hk.signalLost _ (settle_keeps hr hk s hs))
  | linkWord w => exact event fun u => hk.receiveWord u _
  | commandPacket tag code ps =>
    refine event (wholePacket_keeps hk fun u hu => ?_)
    split
    · exact hk.receiveCommand u _ hu
    · exact hk.countMalformed u hu
  | recallPacket p =>
    refine event (wholePacket_keeps hk fun u hu => ?_)
    split
    case isTrue h => exact hk.receiveRecall u p h.1 hu
    case isFalse => exact hk.countMalformed u hu
  | routeIdleTimeout r => exact event fun u => hk.idleOut u r
  | gatePacket g => exact event (wholePacket_keeps hk fun u => hk.receiveGate u g)
  | malformedPacket cause => exact event (malformed_keeps hk cause)
  | holdLimitReached => exact event hk.takeHoldLimit
  | transmitStart => exact event hk.transmit
  | packetSent => exact event hk.complete
  | monitorOutputFrame id => exact event fun u => hk.outputFrame u id
  | unknownCommandCode => exact event (runCommand_keeps e fun _ _ hu => hu)
  | holdMillisecond => exact event hk.holdTick

/-- What every command keeps, whatever the model's queue of commands, every step keeps. -/
theorem step_keeps_of_answers (hpend : ∀ s rest, P s → P { s with pending := rest }) (h : ∀ c s, P s → Answers P (exec c s)) (s t : State)
    (hs : P s) (ht : step s = .next t) : P t := by
  refine step_keeps hpend (fun c u v hu hv => ?_) s t hs ht
  obtain ⟨w, hw, hPw⟩ := h c u hu
  exact Host.Outcome.next.inj (hw.symm.trans hv) ▸ hPw

end

end Sys2Proof.Machine

namespace Sys2Proof.Machine

/-! ### What stands off the lanes -/

/-- The notices of `e` after flags have been raised in `ev`: there is still at most one of each flag, and with the link not UP none has been added (R165). -/
def EventUnit.Raised (ev e : EventUnit) (up : Bool) : Prop :=
  ((ev.notices.map Notice.flag).Nodup → (e.notices.map Notice.flag).Nodup) ∧ (up = false → e.notices = ev.notices)

theorem EventUnit.raised_of_notices {ev e : EventUnit} (up : Bool) (h : e.notices = ev.notices) : ev.Raised e up := ⟨fun hn => h ▸ hn, fun _ => h⟩

theorem EventUnit.Raised.trans {ev e d : EventUnit} {up : Bool} (h : ev.Raised e up) (k : e.Raised d up) : ev.Raised d up :=
  ⟨fun hn => k.1 (h.1 hn), fun hu => (k.2 hu).trans (h.2 hu)⟩

/-- A flag's notice is made ready only when none of it waits. -/
theorem EventUnit.raise_raised (ev : EventUnit) (up : Bool) (f : Flag) (i : Item) : ev.Raised (ev.raise up f i) up := by
  rw [EventUnit.Raised, ev.raise_notices]
  split
  case isTrue h =>
    obtain ⟨-, hup, -, hnone⟩ := (ev.readies_iff up f).mp h
    refine ⟨fun hn => ?_, fun hdown => absurd (hup.symm.trans hdown) (by decide)⟩
    rw [List.map_append, List.map_singleton, ← List.concat_eq_append, List.nodup_concat]
    refine ⟨fun hm => ?_, hn⟩
    obtain ⟨n, hmem, hflag⟩ := List.mem_map.mp hm
    cases n with
    | event g item => exact hnone item (Option.some.inj hflag ▸ hmem)
    | status => exact nomatch hflag
  case isFalse => exact ⟨fun hn => (List.append_nil _).symm ▸ hn, fun _ => List.append_nil _⟩

theorem EventUnit.raiseLane_raised (l : LaneId) (up : Bool) (raised : List (LaneEvent × Item)) (ev : EventUnit) :
    ev.Raised (raised.foldl (fun ev r => ev.raise up (.lane l r.1) r.2) ev) up := by
  induction raised generalizing ev with
  | nil => exact .intro id fun _ => rfl
  | cons r rs ih => exact (ev.raise_raised up _ _).trans (ih _)

/-- From `s` to `t`, only what belongs to the lanes and the items has moved, the flags raised on the way and the frames delivered live among it. -/
structure State.Off (s t : State) : Prop where
  far : s.Far t
  monitors : ∀ id, t.monitor id = { s.monitor id with live := (t.monitor id).live }
  events : s.events.Raised t.events s.linkUp

theorem State.Off.trans {s t u : State} (h : s.Off t) (k : t.Off u) : s.Off u where
  far := h.far.trans k.far
  monitors id := by
    conv_lhs => rw [k.monitors id, h.monitors id]
  events := h.events.trans (h.far.linkUp ▸ k.events)

theorem State.off_of_same {s t : State} (hf : s.Far t) (ha : t.monA = s.monA) (hb : t.monB = s.monB)
    (hn : t.events.notices = s.events.notices) : s.Off t where
  far := hf
  monitors id := by rw [State.monitor_congr ha hb]
  events := EventUnit.raised_of_notices _ hn

theorem State.Off.refl (s : State) : s.Off s := State.off_of_same (.refl s) rfl rfl rfl

theorem State.Local.off {l : LaneId} {s t : State} (h : State.Local l s t) : s.Off t where
  far := h.far
  monitors id := (h.monitors id).1
  events := by
    obtain ⟨raised, hev⟩ := h.events
    exact hev ▸ EventUnit.raiseLane_raised ..

theorem State.Path.off {l : LaneId} {s t : State} (h : State.Path l s t) : s.Off t := h.isLocal.off

/-! ### The commands on lanes and items -/

theorem State.path_applyProfile (s : State) (l : LaneId) (p : Profile) : State.Path l s (s.applyProfile l p) := by
  unfold State.applyProfile
  dsimp only
  have written := s.path_mapLane l (fun x => ({ x with profile := p } : Lane).trimRing) rfl
  split
  · have restarted := written.trans (State.path_restartMeasurement _ l)
    split
    · exact restarted.trans (State.path_loseLock _ l)
    · exact restarted
  · exact written

/-- A refusal, or the profile written. -/
theorem laneSet_path (l : LaneId) (ps : List Byte) (s : State) : State.Path l s (laneSet l ps s).state := by
  unfold laneSet
  dsimp only
  split
  · exact .refl s
  · split
    · exact .refl s
    · split
      · exact .refl s
      · split
        · exact .refl s
        · exact s.path_applyProfile l _

theorem laneStatus_path (l : LaneId) (ps : List Byte) (s : State) : State.Path l s (laneStatus l ps s).state := .edit s _ rfl rfl

theorem OpenItem.speedSet_buffer {o p : OpenItem} {r : Ratio} (h : o.speedSet r = some p) : p.buffer = o.buffer := by
  unfold OpenItem.speedSet at h
  split at h
  · rw [← Option.some.inj h]
  · split at h
    · rw [← Option.some.inj h]
    · exact nomatch h

theorem speedSet_path (l : LaneId) (ps : List Byte) (s : State) : State.Path l s (speedSet l ps s).state := by
  unfold speedSet
  dsimp only
  split
  · exact .refl s
  · split
    · exact .refl s
    · split
      · exact .edit s _ rfl rfl
      case h_2 o ho =>
        split
        · exact .refl s
        case h_2 p hp =>
          refine .edit s _ ?_ ?_
          · simp [Lane.hasBuffer, ho, OpenItem.speedSet_buffer hp]
          · simp [ho]

theorem inject_path (l : LaneId) (ps : List Byte) (s : State) : State.Path l s (inject l ps s).state := by
  unfold inject
  dsimp only
  split
  · exact .edit s _ rfl rfl
  · exact .refl s

/-- A lane that is ARMED has an empty open slot. -/
theorem Lane.transfer_armed {x : Lane} (h : x.transfer = .armed) : x.item = none := by
  unfold Lane.transfer at h
  cases hi : x.item with
  | none => rfl
  | some o =>
    simp only [hi] at h
    split at h
    · exact nomatch h
    · split at h <;> exact nomatch h

/-- ITEM_START works on the lane in which it finds its record, and on nothing where it finds none queued. -/
theorem itemStart_path (ps : List Byte) (s : State) :
    (itemStart ps s).state = s ∨ ∃ l n q, s.find (itemParam ps) = some (.queued l n q) ∧ State.Path l s (itemStart ps s).state := by
  unfold itemStart
  split
  · exact .inl rfl
  case h_2 l n q hf =>
    dsimp only
    split
    · exact .inl rfl
    case isFalse hb =>
      split
      · exact .inl rfl
      · refine .inr ⟨l, n, q, hf, s.path_openHead l _ _ _ (Lane.transfer_armed ?_)⟩
        have armed : n = 0 ∧ (s.lane l).transfer = .armed := by simpa using hb
        exact armed.2
  · exact .inl rfl

theorem closeByCommand_path (r : CloseReason) (ps : List Byte) (s : State) :
    (closeByCommand r ps s).state = s ∨ ∃ l o, s.find (itemParam ps) = some (.opened l o) ∧ State.Path l s (closeByCommand r ps s).state := by
  unfold closeByCommand
  split
  · exact .inl rfl
  case h_2 l o hf => exact .inr ⟨l, o, hf, .close s r⟩
  · exact .inl rfl

theorem itemMark_path (ps : List Byte) (s : State) : (itemMark ps s).state = s ∨ ∃ l, State.Path l s (itemMark ps s).state := by
  unfold itemMark
  dsimp only
  split
  · exact .inl rfl
  · split
    · exact .inl rfl
    case h_2 l o hf =>
      refine .inr ⟨l, .edit s _ ?_ ?_⟩
      · simp [Lane.hasBuffer, (State.find_opened hf).1, (o.raiseMark_accounts _).buffer]
      · simp [(State.find_opened hf).1]
    · exact .inl rfl

/-! ### What every lane event and lane command leaves -/

section
variable {P : State → Prop} (h : ∀ s t, State.Off s t → P s → P t)
include h

theorem laneEventsKeep_of_off : LaneEventsKeep P where
  slotArrives s l slot hs := h s _ (s.path_slotArrives l slot).off hs
  endWindow s l n t ms hs := h s _ (s.path_endWindow l n t ms).off hs
  loseClock s l hs := h s _ (s.path_loseClock l).off hs
  expireDropout s l hs := h s _ (s.path_expireDropout l).off hs
  endDebounce s l hs := h s _ (s.path_endDebounce l).off hs
  cue s l f hs := h s _ (s.path_mapLane l (fun x => { x with cue := f x }) rfl).off hs

theorem laneCommandsKeep_of_off : LaneCommandsKeep P where
  laneSet l ps s hs := h s _ (laneSet_path l ps s).off hs
  laneStatus l ps s hs := h s _ (laneStatus_path l ps s).off hs
  laneReset l ps s hs := by
    let u : State := { s with events := { s.events with lanes := s.events.lanes.set l 0 } }
    have cleared : s.Off u := State.off_of_same (.refl s) rfl rfl rfl
    have closed : u.Off (u.closeItem l .laneReset) := (u.closeItem_local l .laneReset).off
    have freed : (u.closeItem l .laneReset).Off (laneReset l ps s).state := State.off_of_same (.refl _) rfl rfl rfl
    exact h s _ ((cleared.trans closed).trans freed) hs
  speedSet l ps s hs := h s _ (speedSet_path l ps s).off hs
  inject l ps s hs := h s _ (inject_path l ps s).off hs
  itemQueue l ps s hs := by
    unfold itemQueue
    dsimp only
    split
    · exact hs
    · split
      · exact hs
      · split
        · exact hs
        · split
          · exact hs
          · split
            · exact hs
            · exact h s _ (State.off_of_same (.refl s) rfl rfl rfl) hs
  itemWithdraw ps s hs := by
    unfold itemWithdraw
    split
    · exact hs
    · exact h s _ (State.off_of_same (.refl s) rfl rfl rfl) hs
    · exact hs
  itemStart ps s hs := by
    obtain e | ⟨l, -, -, -, hp⟩ := itemStart_path ps s
    · exact e.symm ▸ hs
    · exact h s _ hp.off hs
  closeByCommand r ps s hs := by
    obtain e | ⟨l, -, -, hp⟩ := closeByCommand_path r ps s
    · exact e.symm ▸ hs
    · exact h s _ hp.off hs
  itemMark ps s hs := by
    obtain e | ⟨l, hp⟩ := itemMark_path ps s
    · exact e.symm ▸ hs
    · exact h s _ hp.off hs
  itemRelease ps s hs := by
    unfold itemRelease
    split
    · exact hs
    · exact h s _ (State.off_of_same (.refl s) rfl rfl rfl) hs
    · exact hs

end

end Sys2Proof.Machine

namespace Sys2Proof.Machine

/-! ### What leaves the lanes and the queue of commands -/

section
variable {P : State → Prop} (h : ∀ s t, State.Bench s t → P s → P t)
include h

theorem linkEventsKeep_of_bench (hsignal : ∀ (s : State) b, P s → P { s with rx := { s.rx with signal := b } })
    (hcomplete : ∀ s, P s → P (State.complete s)) : LinkEventsKeep P where
  signal s b _ hs := hsignal s b hs
  signalAppears s hs := h s _ s.signalAppears_bench hs
  signalLost s hs := h s _ s.signalLost_bench hs
  receiveWord s w hs := h s _ (s.receiveWord_bench w) hs
  dropPacket s hs := h s _ ⟨rfl, rfl, rfl, rfl⟩ hs
  receiveCommand s c hs := h s _ (s.receiveCommand_bench c) hs
  receiveRecall s p _ hs := h s _ (s.receiveRecall_bench p) hs
  receiveGate s g hs := h s _ (s.receiveGate_bench g) hs
  countMalformed s hs := h s _ s.countMalformed_bench hs
  idleOut s r hs := h s _ (s.idleOut_bench r) hs
  takeHoldLimit s hs := h s _ s.takeHoldLimit_bench hs
  holdTick s hs := h s _ s.holdTick_bench hs
  transmit s hs := h s _ s.transmit_bench hs
  complete := hcomplete
  outputFrame s id hs := h s _ (s.outputFrame_bench id) hs

theorem partCommandsKeep_of_bench : PartCommandsKeep P where
  deviceResetCommand ps s hs := h s _ ⟨rfl, rfl, rfl, rfl⟩ hs
  linkStats ps s hs := h s _ (s.count_bench _) hs
  eventRead ps s hs := by
    unfold eventRead
    split
    · exact h s _ ⟨rfl, rfl, rfl, rfl⟩ hs
    · exact hs
  eventMask ps s hs := by
    unfold eventMask
    dsimp only
    split
    · exact h s _ (.trans ⟨rfl, rfl, rfl, rfl⟩ (State.takeHoldLimit_bench _)) hs
    · exact hs
  eventForce ps s hs := by
    unfold eventForce
    split
    · exact h s _ (State.raiseAll_bench _ s) hs
    · exact hs
  routeSet ps s hs := by
    unfold routeSet
    split
    · exact hs
    · split
      · exact hs
      · split
        · exact hs
        · split
          · exact hs
          · exact h s _ (s.setRoute_bench _ _) hs
  routeClear ps s hs := by
    unfold routeClear
    split
    · exact hs
    · split
      · exact hs
      · exact h s _ ((s.flushFor_bench _ _).trans ⟨rfl, rfl, rfl, rfl⟩) hs
  monitorSelect ps s hs := by
    unfold monitorSelect
    split
    · exact h s _ (s.setMonitor_bench _ _) hs
    · split
      · exact h s _ (s.setMonitor_bench _ _) hs
      · exact hs
    · exact h s _ (s.setMonitor_bench _ _) hs
    · exact hs
  monitorStatus ps s hs := by
    unfold monitorStatus
    split
    · exact hs
    · exact h s _ (s.setMonitor_bench _ _) hs

end

/-! ### The model's queue of commands -/

/-- No command touches the model's queue of commands. -/
theorem exec_pending (c : Instr) (s : State) : Answers (fun t => t.pending = s.pending) (exec c s) := by
  have off (u t : State) (h : u.Off t) (hu : u.pending = s.pending) : t.pending = s.pending := h.far.2.2.2.2.2.2.trans hu
  have bench (u t : State) (h : u.Bench t) (hu : u.pending = s.pending) : t.pending = s.pending := h.2.2.2.trans hu
  exact exec_keeps ⟨fun _ _ _ hu => hu, fun _ hu => hu⟩ (laneEventsKeep_of_off off)
    (linkEventsKeep_of_bench bench (fun _ _ hu => hu) fun u hu => u.complete_still.2.2.2.trans hu) (executes_of_cmd fun _ _ hu => hu)
    (laneCommandsKeep_of_off off) (partCommandsKeep_of_bench bench) c s rfl

end Sys2Proof.Machine

namespace Sys2Proof.Proofs

open Sys2Proof.Machine

/-- Settles O2: the operations that the commands are made of leave the model's queue of commands alone. -/
theorem everyCommandAnswers : Obligations.EveryCommandAnswers := exec_pending

end Sys2Proof.Proofs

/-! What the events of a lane and the commands on an open item leave alone (R34, R37, R46, R48, R49). -/

namespace Sys2Proof.Machine

/-! ### The monitor ports at an opening and a close -/

theorem State.ItemTakes.ports {s t : State} {l : LaneId} {f : Frame} {o p : OpenItem} (h : s.ItemTakes t l f o p) :
    t.monA = s.monA ∧ t.monB = s.monB := by
  rw [h.1]
  exact ⟨rfl, rfl⟩

theorem State.passFrame_ports (s : State) (l : LaneId) (f : Frame) : (s.passFrame l f).monA = s.monA ∧ (s.passFrame l f).monB = s.monB := by
  cases ho : (s.lane l).item with
  | none => simp only [State.passFrame, ho, and_self]
  | some o =>
    obtain ⟨p, hp⟩ := s.passFrame_takes l f ho
    exact hp.ports

theorem State.passFrames_ports (l : LaneId) (fs : List Frame) (s : State) :
    (fs.foldl (fun s f => s.passFrame l f) s).monA = s.monA ∧ (fs.foldl (fun s f => s.passFrame l f) s).monB = s.monB := by
  induction fs generalizing s with
  | nil => exact ⟨rfl, rfl⟩
  | cons f fs ih =>
    obtain ⟨ha, hb⟩ := s.passFrame_ports l f
    exact ⟨(ih _).1.trans ha, (ih _).2.trans hb⟩

theorem State.requestBuffer_ports (s : State) (l : LaneId) : (s.requestBuffer l).monA = s.monA ∧ (s.requestBuffer l).monB = s.monB := by
  unfold State.requestBuffer
  split
  · exact ⟨rfl, rfl⟩
  · split <;> exact ⟨rfl, rfl⟩

theorem State.closeItem_ports (s : State) (l : LaneId) (r : CloseReason) :
    (s.closeItem l r).monA = s.monA ∧ (s.closeItem l r).monB = s.monB := by
  cases ho : (s.lane l).item with
  | none => simp only [State.closeItem, ho, and_self]
  | some o =>
    obtain ⟨-, -, -, -, -, -, -, -, ha, hb⟩ := s.closeItem_itemCloses l r ho
    exact ⟨ha, hb⟩

theorem State.openHead_ports (s : State) (l : LaneId) (first : FrameCount) (cs : List Frame) (use : InUse) :
    (s.openHead l first cs use).monA = s.monA ∧ (s.openHead l first cs use).monB = s.monB := by
  unfold State.openHead
  dsimp only
  split
  case h_1 q rest _ =>
    have pushed (u : State) : (((prerollOf q cs).foldl (fun s f => s.passFrame l f) (u.requestBuffer l)).monA = u.monA) ∧
        ((prerollOf q cs).foldl (fun s f => s.passFrame l f) (u.requestBuffer l)).monB = u.monB := by
      obtain ⟨ha, hb⟩ := State.passFrames_ports l (prerollOf q cs) (u.requestBuffer l)
      obtain ⟨ra, rb⟩ := u.requestBuffer_ports l
      exact ⟨ha.trans ra, hb.trans rb⟩
    split
    · split
      · obtain ⟨ca, cb⟩ := State.closeItem_ports ((((prerollOf q cs).foldl (fun s f => State.passFrame s l f) _).mapItem l fun o =>
          { o with record := o.record.reckon }).raise (.lane l .itemOpened) q.item) l .length
        exact ⟨ca.trans (pushed _).1, cb.trans (pushed _).2⟩
      · exact pushed _
    · exact pushed _
  case h_2 => exact ⟨rfl, rfl⟩

/-! ### Commands that find an item -/

/-- A command that looks its item up is refused, or works on the lane alone in which it has found the record queued or open. -/
def FoundAlone (s : State) (item : Item) (r : Reaction) : Prop :=
  (∃ st, r = refuse s st) ∨ ∃ l, ((∃ n q, s.find item = some (.queued l n q)) ∨ ∃ o, s.find item = some (.opened l o)) ∧
    s.Aside r.state l ∧ r.state.monA = s.monA ∧ r.state.monB = s.monB

theorem itemStart_foundAlone (ps : List Byte) (s : State) : FoundAlone s (itemParam ps) (itemStart ps s) := by
  unfold itemStart
  split
  · exact .inl ⟨_, rfl⟩
  case h_2 l n q hf =>
    dsimp only
    split
    · exact .inl ⟨_, rfl⟩
    case isFalse hb =>
      split
      · exact .inl ⟨_, rfl⟩
      · have armed : n = 0 ∧ (s.lane l).transfer = .armed := by simpa using hb
        have opened := s.path_openHead l (s.lane l).port.counter (s.lane l).eligibleFrames (s.lane l).inUse (Lane.transfer_armed armed.2)
        exact .inr ⟨l, .inl ⟨n, q, hf⟩, opened.isLocal.aside, s.openHead_ports ..⟩
  · exact .inl ⟨_, rfl⟩

theorem closeByCommand_foundAlone (r : CloseReason) (ps : List Byte) (s : State) :
    FoundAlone s (itemParam ps) (closeByCommand r ps s) := by
  unfold closeByCommand
  split
  · exact .inl ⟨_, rfl⟩
  case h_2 l o hf => exact .inr ⟨l, .inr ⟨o, hf⟩, (s.closeItem_local l r).aside, s.closeItem_ports l r⟩
  · exact .inl ⟨_, rfl⟩

theorem counted_foundAlone {body : List Byte → State → Reaction} (h : ∀ ps s, FoundAlone s (itemParam ps) (body ps s)) (n : Nat)
    (ps : List Byte) (s : State) : FoundAlone s (itemParam ps) (counted n body ps s) := by
  unfold counted
  split
  · exact h ps s
  · exact .inl ⟨_, rfl⟩

/-- A command about to execute whose code is its row's is answered by its body. -/
theorem command_of_code {s : State} {c : Command} (hr : s.ready c = true) {code : Byte} (hc : c.code = code)
    (body : List Byte → State → Reaction) : command s code body = .next ((body c.params s.takeCommand).reply c) :=
  command_of_ready hr (mine := (· == code)) (beq_iff_eq.mpr hc) body

/-- The step of such a command. -/
theorem command_foundAlone {body : List Byte → State → Reaction} (h : ∀ ps s, FoundAlone s (itemParam ps) (body ps s)) {s : State}
    {c : Command} (hr : s.ready c = true) {code : Byte} (hc : c.code = code) : ∃ t, command s code body = .next t ∧
      (∀ l, (∃ n q, s.find (itemParam c.params) = some (.queued l n q)) ∨ (∃ o, s.find (itemParam c.params) = some (.opened l o)) →
        s.Aside t l ∧ t.monA = s.monA ∧ t.monB = s.monB) ∧
      (s.find (itemParam c.params) = none ∨ (∃ r, s.find (itemParam c.params) = some (.closed r)) → ∃ status, t = s.answered c status) := by
  refine ⟨_, command_of_code hr hc body, ?_⟩
  obtain ⟨st, e⟩ | ⟨l, hfound, haside, ha, hb⟩ := h c.params s.takeCommand
  · rw [e]
    exact ⟨fun l _ => ⟨(State.Local.refl l s).aside, rfl, rfl⟩, fun _ => ⟨st, rfl⟩⟩
  · refine ⟨fun k hk => ?_, fun hnot => ?_⟩
    · have same : k = l := by
        obtain ⟨n, q, f⟩ | ⟨o, f⟩ := hk
        · obtain ⟨m, p, g⟩ | ⟨p, g⟩ := hfound
          · exact (Found.queued.inj (Option.some.inj (f.symm.trans g))).1
          · exact nomatch f.symm.trans g
        · obtain ⟨m, p, g⟩ | ⟨p, g⟩ := hfound
          · exact nomatch f.symm.trans g
          · exact (Found.opened.inj (Option.some.inj (f.symm.trans g))).1
      exact same ▸ ⟨haside, ha, hb⟩
    · exfalso
      obtain f | ⟨r, f⟩ := hnot
      · obtain ⟨m, p, g⟩ | ⟨p, g⟩ := hfound <;> exact nomatch f.symm.trans g
      · obtain ⟨m, p, g⟩ | ⟨p, g⟩ := hfound <;> exact nomatch f.symm.trans g

/-! ### Lane events that reach the units -/

theorem exec_cueLineChange {s : State} (ha : s.awake = true) (l : LaneId) (low : Bool) :
    exec (.cueLineChange l low) s = .next (s.mapLane l fun x => { x with cue := x.cue.sample low x.profile.debounce }) := by
  simp only [State.awake, Bool.and_eq_true, Bool.not_eq_true'] at ha
  show Host.Outcome.next _ = _
  rw [ha.1, if_neg Bool.false_ne_true, State.settle_of_settled ha.2]

/-- An event of a lane works on its own lane. -/
theorem exec_laneEvent_local {s : State} (ha : s.awake = true) {l : LaneId} {c : Instr}
    (hc : (∃ slot, c = .arrivingFrame l slot) ∨ (∃ slot, c = .injectionCountdownEnd l slot) ∨ (∃ slot, c = .detectorWindowEnd l slot) ∨
      (∃ n span ms, c = .rateWindowEnd l n span ms) ∨ c = .clockLoss l ∨ c = .dropoutExpiry l ∨ (∃ low, c = .cueLineChange l low) ∨
      c = .cueDebounceEnd l) : ∃ t, exec c s = .next t ∧ State.Local l s t := by
  have event (f : State → State) (hf : State.Path l s (f s)) : ∃ t, running s f = .next t ∧ State.Local l s t :=
    ⟨_, running_of_awake ha f, hf.isLocal⟩
  have slot_if (slot : Slot) (p : Prop) [Decidable p] : State.Path l s (if p then s.slotArrives l slot else s) := by
    split
    · exact s.path_slotArrives l slot
    · exact .refl s
  obtain ⟨slot, rfl⟩ | ⟨slot, rfl⟩ | ⟨slot, rfl⟩ | ⟨n, span, ms, rfl⟩ | rfl | rfl | ⟨low, rfl⟩ | rfl := hc
  · exact event (·.slotArrives l slot) (s.path_slotArrives l slot)
  · exact event (fun s => if (s.lane l).port.lock = .locked ∧ (s.lane l).port.injection = 1 then s.slotArrives l slot else s) (slot_if slot _)
  · exact event (fun s => if (s.lane l).port.lock = .locked ∧ (s.lane l).windowEnding then s.slotArrives l slot else s) (slot_if slot _)
  · exact event (·.endWindow l n span ms) (s.path_endWindow l n span ms)
  · exact event (·.loseClock l) (s.path_loseClock l)
  · exact event (·.expireDropout l) (s.path_expireDropout l)
  · exact ⟨_, exec_cueLineChange ha l low, (s.path_mapLane l (fun x => { x with cue := x.cue.sample low x.profile.debounce }) rfl).isLocal⟩
  · exact event (·.endDebounce l) (s.path_endDebounce l)

end Sys2Proof.Machine

namespace Sys2Proof.Proofs

open Sys2Proof.Machine

/-- Settles O29: a lane event is made of parts of its own lane, and the three item commands are an opening or a close of the lane that holds the record. -/
theorem laneFrame : Obligations.LaneFrame := by
  unfold Obligations.LaneFrame
  refine ⟨fun s l c ha hc => ?event, fun row hrow hitem s cmd hr hcode => ?command⟩
  case event =>
    obtain ⟨t, ht, hlocal⟩ := exec_laneEvent_local ha hc
    exact ⟨t, ht, hlocal.aside, hlocal.far.2.2.1, hlocal.monitors⟩
  case command =>
    have rows : ∀ row ∈ commandTable, row.1 ∈ [.itemStart, .itemEnd, .itemAbandon] →
        row = (Instr.itemStart, (0x32 : Byte), 4) ∨ row = (.itemEnd, 0x33, 4) ∨ row = (.itemAbandon, 0x34, 4) := by decide
    obtain rfl | rfl | rfl := rows row hrow hitem
    · exact command_foundAlone (counted_foundAlone itemStart_foundAlone 4) hr hcode
    · exact command_foundAlone (counted_foundAlone (closeByCommand_foundAlone .command) 4) hr hcode
    · exact command_foundAlone (counted_foundAlone (closeByCommand_foundAlone .abandoned) 4) hr hcode

end Sys2Proof.Proofs

/-! What every step keeps of the routes and of the monitor ports (R131, R143, R149, R151, R152, R154). -/

namespace Sys2Proof.Machine

/-! ### What leaves the routes and the ports -/

/-- From `s` to `t` no route and no monitor port has moved. -/
def State.Wired (s t : State) : Prop := t.routes = s.routes ∧ t.monA = s.monA ∧ t.monB = s.monB

theorem State.Wired.refl (s : State) : s.Wired s := ⟨rfl, rfl, rfl⟩

theorem State.Wired.trans {s t u : State} (h : s.Wired t) (k : t.Wired u) : s.Wired u :=
  ⟨k.1.trans h.1, k.2.1.trans h.2.1, k.2.2.trans h.2.2⟩

theorem State.takeHoldLimit_wired (s : State) : s.Wired s.takeHoldLimit := by
  unfold State.takeHoldLimit
  split
  · split
    · exact ⟨rfl, rfl, rfl⟩
    · exact .refl s
  · exact .refl s

theorem State.holdTick_wired (s : State) : s.Wired s.holdTick := by
  unfold State.holdTick
  split
  · exact ⟨rfl, rfl, rfl⟩
  · exact .refl s

theorem State.breakPacket_wired (s : State) : s.Wired s.breakPacket := by
  unfold State.breakPacket
  split
  · exact ⟨rfl, rfl, rfl⟩
  · exact .refl s

theorem State.leaveUp_wired (s : State) : s.Wired s.leaveUp := s.cutOff.breakPacket_wired

theorem State.receiveCommand_wired (s : State) (c : Command) : s.Wired (s.receiveCommand c) := by
  unfold State.receiveCommand
  dsimp only
  split <;> exact ⟨rfl, rfl, rfl⟩

theorem State.signalAppears_wired (s : State) : s.Wired s.signalAppears := by
  unfold State.signalAppears
  split <;> exact ⟨rfl, rfl, rfl⟩

theorem State.signalLost_wired (s : State) : s.Wired s.signalLost := by
  unfold State.signalLost
  dsimp only
  split
  · exact State.leaveUp_wired _
  · exact ⟨rfl, rfl, rfl⟩
  · exact ⟨rfl, rfl, rfl⟩

theorem State.alignWord_wired (s : State) (w : LinkWord) : s.Wired (s.alignWord w) := by
  unfold State.alignWord
  dsimp only
  split
  · split <;> exact ⟨rfl, rfl, rfl⟩
  · exact ⟨rfl, rfl, rfl⟩

theorem State.transmit_wired (s : State) : s.Wired s.transmit := by
  unfold State.transmit
  dsimp only
  split
  · exact .refl s
  · split
    · exact ⟨rfl, rfl, rfl⟩
    · split
      · exact ⟨rfl, rfl, rfl⟩
      · split
        · exact ⟨rfl, rfl, rfl⟩
        · split
          · exact ⟨rfl, rfl, rfl⟩
          · exact .refl s

theorem State.grant_wired (s : State) : s.Wired s.grant := by
  obtain ⟨lanes, waiting, e, -⟩ := State.grantLoop_eq s.memory.waiting.length s
  rw [State.grant, e]
  exact ⟨rfl, rfl, rfl⟩

theorem State.complete_wired (s : State) : s.Wired s.complete := by
  unfold State.complete
  split
  · exact .refl s
  · dsimp only
    split
    · exact ⟨rfl, rfl, rfl⟩
    · exact .trans ⟨rfl, rfl, rfl⟩ (State.grant_wired _)
    · split <;> exact ⟨rfl, rfl, rfl⟩
    · exact ⟨rfl, rfl, rfl⟩

/-- A RECALL that the receiver reads has the payload that its header declares (R159). -/
theorem recallOf_payload {body : List Byte} {p : RecallPacket} (h : recallOf body = some p) :
    p.payload.length = p.frames.toNat * p.channels.toNat * 3 := by
  unfold recallOf at h
  dsimp only at h
  rw [Option.ite_none_right_eq_some] at h
  obtain ⟨hlen, e⟩ := h
  obtain rfl := Option.some.inj e
  have hframes : field body 10 2 < 2 ^ 16 := field_lt body 10 2
  have hchannels : field body 12 1 < 2 ^ 8 := field_lt body 12 1
  simp only [Bool.and_eq_true, decide_eq_true_eq, beq_iff_eq] at hlen
  simp only [List.length_take, List.length_drop, BitVec.toNat_ofNat, Nat.mod_eq_of_lt hframes, Nat.mod_eq_of_lt hchannels]
  omega

/-- ROUTE_SET takes no item number 0 (R133). -/
theorem routeParams_item {ps : List Byte} {p : RouteParams} (h : routeParams ps = some p) : p.item ≠ 0 := by
  unfold routeParams at h
  dsimp only at h
  split at h
  · rw [Option.ite_none_right_eq_some] at h
    obtain ⟨hc, e⟩ := h
    obtain rfl := Option.some.inj e
    simp only [Bool.and_eq_true, decide_eq_true_eq, ne_eq] at hc
    have hlt : field ps 0 4 < 2 ^ 32 := field_lt ps 0 4
    refine fun hz => hc.1.1 ?_
    have zero : (BitVec.ofNat 32 (field ps 0 4)).toNat = 0 := congrArg BitVec.toNat hz
    rwa [BitVec.toNat_ofNat, Nat.mod_eq_of_lt hlt] at zero
  · exact nomatch h

section
variable {P : State → Prop} (h : ∀ s t, State.Wired s t → P s → P t)
  (hrecall : ∀ s (p : RecallPacket), p.payload.length = p.frames.toNat * p.channels.toNat * 3 → P s → P (State.receiveRecall s p))
include h hrecall

theorem receivePacket_keeps (s : State) (bytes : List Byte) (hs : P s) : P (s.receivePacket bytes) := by
  have bad : P s.countMalformed := h s _ ⟨rfl, rfl, rfl⟩ hs
  unfold State.receivePacket
  dsimp only
  split
  · exact bad
  · split
    · split
      · split
        · exact h s _ (s.receiveCommand_wired _) hs
        · exact bad
      · split
        · split
          case h_1 p hp => exact hrecall s p (recallOf_payload hp) hs
          · exact bad
        · split
          · split
            · exact h s _ ⟨rfl, rfl, rfl⟩ hs
            · exact bad
          · exact bad
    · exact bad

theorem receiveWord_keeps (s : State) (w : LinkWord) (hs : P s) : P (s.receiveWord w) := by
  have broken (u : State) (hu : s.Wired u) : P u.breakPacket := h s _ (hu.trans u.breakPacket_wired) hs
  unfold State.receiveWord
  split
  · unfold State.upWord
    split
    · dsimp only
      split
      · exact h s _ (s.breakPacket_wired.trans (State.leaveUp_wired { s.breakPacket with rx := _ })) hs
      · exact h s _ s.breakPacket_wired hs
    · exact broken _ ⟨rfl, rfl, rfl⟩
    · exact h (State.breakPacket { s with rx := { s.rx with run := 0 } }) _ ⟨rfl, rfl, rfl⟩ (broken _ ⟨rfl, rfl, rfl⟩)
    · exact h s _ ⟨rfl, rfl, rfl⟩ hs
    · split
      · exact receivePacket_keeps h hrecall _ _ (h s _ ⟨rfl, rfl, rfl⟩ hs)
      · exact h s _ ⟨rfl, rfl, rfl⟩ hs
  · exact h s _ (s.alignWord_wired w) hs
  · split
    · exact h s _ (.trans ⟨rfl, rfl, rfl⟩ (State.alignWord_wired _ w)) hs
    · exact hs

theorem linkEventsKeep_of_wired (hidle : ∀ s r, P s → P (State.idleOut s r)) (hout : ∀ s id, P s → P (State.outputFrame s id)) :
    LinkEventsKeep P where
  signal s _ _ hs := h s _ ⟨rfl, rfl, rfl⟩ hs
  signalAppears s hs := h s _ s.signalAppears_wired hs
  signalLost s hs := h s _ s.signalLost_wired hs
  receiveWord := receiveWord_keeps h hrecall
  dropPacket s hs := h s _ ⟨rfl, rfl, rfl⟩ hs
  receiveCommand s c hs := h s _ (s.receiveCommand_wired c) hs
  receiveRecall := hrecall
  receiveGate s _ hs := h s _ ⟨rfl, rfl, rfl⟩ hs
  countMalformed s hs := h s _ ⟨rfl, rfl, rfl⟩ hs
  idleOut := hidle
  takeHoldLimit s hs := h s _ s.takeHoldLimit_wired hs
  holdTick s hs := h s _ s.holdTick_wired hs
  transmit s hs := h s _ s.transmit_wired hs
  complete s hs := h s _ s.complete_wired hs
  outputFrame := hout

omit hrecall in
theorem partCommandsKeep_of_wired (hset : ∀ s r p, State.freeRoute s = some r → (State.routeOf s p.item).isSome = false → p.item ≠ 0 → P s →
      P (s.setRoute r (some (Route.set p))))
    (hclear : ∀ s r t, State.route s r = some t → P s → P ((s.flushFor r t).setRoute r none))
    (hmon : ∀ s id source, P s → P (State.setMonitor s id ((s.monitor id).select source)))
    (hread : ∀ s id, P s → P (State.setMonitor s id { s.monitor id with underruns := 0 })) : PartCommandsKeep P where
  deviceResetCommand _ s hs := h s _ ⟨rfl, rfl, rfl⟩ hs
  linkStats _ s hs := h s _ ⟨rfl, rfl, rfl⟩ hs
  eventRead ps s hs := by
    unfold eventRead
    split
    · exact h s _ ⟨rfl, rfl, rfl⟩ hs
    · exact hs
  eventMask ps s hs := by
    unfold eventMask
    dsimp only
    split
    · exact h s _ (.trans ⟨rfl, rfl, rfl⟩ (State.takeHoldLimit_wired _)) hs
    · exact hs
  eventForce ps s hs := by
    unfold eventForce
    split
    · rw [State.raiseAll_eq]
      exact h s _ ⟨rfl, rfl, rfl⟩ hs
    · exact hs
  routeSet ps s hs := by
    unfold routeSet
    split
    · exact hs
    case h_2 p hp =>
      split
      · exact hs
      case h_2 r hr =>
        split
        · exact hs
        case isFalse hitem =>
          split
          · exact hs
          · exact hset s r p hr (Bool.eq_false_iff.mpr hitem) (routeParams_item hp) hs
  routeClear ps s hs := by
    unfold routeClear
    split
    · exact hs
    case h_2 r _ =>
      split
      · exact hs
      case h_2 t ht => exact h ((s.flushFor r t).setRoute r none) _ ⟨rfl, rfl, rfl⟩ (hclear s r t ht hs)
  monitorSelect ps s hs := by
    unfold monitorSelect
    split
    · exact hmon s _ _ hs
    · split
      · exact hmon s _ _ hs
      · exact hs
    · exact hmon s _ _ hs
    · exact hs
  monitorStatus ps s hs := by
    unfold monitorStatus
    split
    · exact hs
    · exact hread s _ hs

end

end Sys2Proof.Machine

namespace Sys2Proof.Machine

/-! ### Routes -/

/-- What R131 and R143 say of one route that is not FREE. -/
def Route.Lawful (t : Route) : Prop :=
  t.item ≠ 0 ∧ (t.state = .waiting → t.frames = 0 ∧ t.blocks = 0 ∧ t.format = none) ∧ (t.state = .verified → t.Vouched)

theorem State.route_congr {s t : State} (h : t.routes = s.routes) (r : RouteId) : t.route r = s.route r := by rw [State.route, State.route, h]

theorem State.RoutesLawful.congr {s t : State} (hs : s.RoutesLawful) (h : t.routes = s.routes) : t.RoutesLawful := by
  simpa only [State.RoutesLawful, State.route_congr h] using hs

theorem State.route_setRoute_eq (s : State) (r q : RouteId) (t : Option Route) :
    (s.setRoute r t).route q = if q = r then t else s.route q := by
  split
  case isTrue h => rw [h, State.route_setRoute]
  case isFalse h => exact s.route_setRoute_ne t h

/-- A route replaced by a lawful one whose item number no other route has. -/
theorem State.RoutesLawful.setRoute {s : State} (hs : s.RoutesLawful) {r : RouteId} {u : Route} (hu : u.Lawful)
    (hitem : ∀ q t, q ≠ r → s.route q = some t → t.item ≠ u.item) : (s.setRoute r (some u)).RoutesLawful := by
  obtain ⟨hunique, hlawful⟩ := hs
  refine ⟨fun a b x y hx hy hxy => ?_, fun q t ht => ?_⟩
  · rw [State.route_setRoute_eq] at hx hy
    split at hx
    case isTrue ha =>
      obtain rfl := Option.some.inj hx
      split at hy
      case isTrue hb => exact ha.trans hb.symm
      case isFalse hb => exact absurd hxy.symm (hitem b y hb hy)
    case isFalse ha =>
      split at hy
      case isTrue hb => exact absurd (hxy.trans (congrArg Route.item (Option.some.inj hy).symm)) (hitem a x ha hx)
      case isFalse => exact hunique a b x y hx hy hxy
  · rw [State.route_setRoute_eq] at ht
    split at ht
    · exact Option.some.inj ht ▸ hu
    · exact hlawful q t ht

/-- A route that moves keeps its item number. -/
theorem State.RoutesLawful.moveRoute {s : State} (hs : s.RoutesLawful) {r : RouteId} {t u : Route} (ht : s.route r = some t)
    (hitem : u.item = t.item) (hu : u.Lawful) : (s.setRoute r (some u)).RoutesLawful :=
  hs.setRoute hu fun q v hq hv e => hq (hs.1 q r v t hv ht (e.trans hitem))

theorem State.RoutesLawful.freeRoute {s : State} (hs : s.RoutesLawful) (r : RouteId) : (s.setRoute r none).RoutesLawful := by
  have of {q : RouteId} {t : Route} (ht : (s.setRoute r none).route q = some t) : s.route q = some t := by
    rw [State.route_setRoute_eq] at ht
    split at ht
    · exact nomatch ht
    · exact ht
  exact ⟨fun a b x y hx hy => hs.1 a b x y (of hx) (of hy), fun q t ht => hs.2 q t (of ht)⟩

theorem State.routeOf_none {s : State} {item : Item} (h : (s.routeOf item).isSome = false) (r : RouteId) {t : Route}
    (ht : s.route r = some t) : t.item ≠ item := by
  rw [Option.isSome_eq_false_iff, Option.isNone_iff_eq_none, State.routeOf, List.find?_eq_none] at h
  have := h r (List.mem_finRange r)
  simpa [ht] using this

/-! ### What a packet makes of its route -/

/-- A route that is still active may have met faults and lost packets: neither its state nor what it has accepted has moved. -/
def Route.Stays (t u : Route) : Prop :=
  u.item = t.item ∧ u.state = t.state ∧ u.frames = t.frames ∧ u.blocks = t.blocks ∧ u.format = t.format ∧ u.sink = t.sink

theorem Route.Stays.refl (t : Route) : t.Stays t := ⟨rfl, rfl, rfl, rfl, rfl, rfl⟩

theorem Route.Stays.trans {t u v : Route} (h : t.Stays u) (k : u.Stays v) : t.Stays v := by
  obtain ⟨h1, h2, h3, h4, h5, h6⟩ := h
  obtain ⟨k1, k2, k3, k4, k5, k6⟩ := k
  exact ⟨k1.trans h1, k2.trans h2, k3.trans h3, k4.trans h4, k5.trans h5, k6.trans h6⟩

theorem Route.Stays.lawful {t u : Route} (h : t.Stays u) (ht : t.Lawful) (ha : t.active = true) : u.Lawful := by
  obtain ⟨hi, hst, hf, hb, hfo, -⟩ := h
  obtain ⟨hne, hw, -⟩ := ht
  refine ⟨hi ▸ hne, fun h => ?_, fun h => ?_⟩
  · rw [hf, hb, hfo]
    exact hw (hst ▸ h)
  · rw [Route.active, ← hst, h] at ha
    exact nomatch ha

theorem Route.fault_stays (t : Route) (c : Cause) : t.Stays (t.fault c) := ⟨rfl, rfl, rfl, rfl, rfl, rfl⟩

theorem Route.discard_stays (t : Route) (c : Cause) : t.Stays (t.discard c) := ⟨rfl, rfl, rfl, rfl, rfl, rfl⟩

theorem Route.sequence_stays (t : Route) (p : RecallPacket) : t.Stays (t.sequence p) := by
  unfold Route.sequence
  dsimp only
  have jumped : t.Stays (if t.next < p.seq.toNat then t.fault .gap else t) := by
    split
    · exact t.fault_stays _
    · exact .refl t
  have moved : t.Stays { (if t.next < p.seq.toNat then t.fault .gap else t) with next := p.seq.toNat + 1 } := jumped
  split
  · exact moved
  · exact moved.trans (Route.fault_stays _ _)

/-- What the tests of R138 to R141 make of an active route: it stays, or the packet is accepted, with room for its frames and in the route's format. -/
theorem Route.carry_cases (t : Route) (p : RecallPacket) (room : Bool) :
    (t.Stays (t.carry p room).1 ∧ (t.carry p room).2 ≠ .accepted) ∨
      ∃ (u : Route) (f : Format), t.Stays u ∧ t.carry p room = (u.accept p f, .accepted) ∧ room = true ∧ packetFormat p = some f ∧
        (u.format = none ∨ u.format = some f) := by
  unfold Route.carry
  split
  case h_1 f hf _ =>
    split
    · exact .inl ⟨⟨rfl, rfl, rfl, rfl, rfl, rfl⟩, nofun⟩
    · dsimp only
      have kept : t.Stays (if packetLast p then { t.sequence p with trailer := p.trailer } else t.sequence p) := by
        split
        · exact (t.sequence_stays p).trans ⟨rfl, rfl, rfl, rfl, rfl, rfl⟩
        · exact t.sequence_stays p
      generalize (if packetLast p then { t.sequence p with trailer := p.trailer } else t.sequence p) = u at kept
      split
      · exact .inl ⟨kept.trans (u.discard_stays _), nofun⟩
      case isFalse hformat =>
        split
        · exact .inl ⟨kept.trans (u.discard_stays _), nofun⟩
        case isFalse hroom =>
          refine .inr ⟨u, f, kept, rfl, by simpa using hroom, hf, ?_⟩
          cases hu : u.format with
          | none => exact .inl rfl
          | some g => exact .inr (by simpa [hu] using hformat)
  case h_2 =>
    refine .inl ⟨.trans ?_ (Route.discard_stays _ _), nofun⟩
    exact ⟨rfl, rfl, rfl, rfl, rfl, rfl⟩

/-- A VERIFIED outcome is vouched for by what the route has counted (R143). -/
theorem Route.outcome_verified {t : Route} (h : t.outcome.1 = .verified) :
    t.gaps = 0 ∧ t.outcome.2 = none ∧ ∃ tr, t.trailer = some tr ∧ t.frames = tr.length.toNat - tr.lost.toNat ∧ digestOf t.crc = tr.digest ∧
      ∀ d, t.expected = some d → digestOf t.crc = d := by
  unfold Route.outcome at h ⊢
  split at h
  · exact nomatch h
  case isFalse hgaps =>
    rw [if_neg hgaps]
    split at h
    case h_1 tr htr =>
      split at h
      · exact nomatch h
      case isFalse hframes =>
        split at h
        · exact nomatch h
        case isFalse hdigest =>
          split at h
          · exact nomatch h
          case isFalse hexpected =>
            refine ⟨Nat.eq_zero_of_not_pos hgaps, ?_, tr, htr, not_not.mp hframes, not_not.mp hdigest, fun d hd => ?_⟩
            · rw [if_neg hframes, if_neg hdigest, if_neg hexpected]
            · have same : d = digestOf t.crc := by simpa only [hd, Option.isSome_some, Bool.true_and, bne_iff_ne, ne_eq, not_not, Option.some.injEq] using hexpected
              exact same.symm
    · exact nomatch h

theorem Route.outcome_vouched {t : Route} (h : t.outcome.1 = .verified) :
    ({ t with state := t.outcome.1, cause := t.outcome.2 } : Route).Vouched :=
  Route.outcome_verified h

theorem Route.outcome_ne_waiting (t : Route) : t.outcome.1 ≠ .waiting := by
  unfold Route.outcome
  split
  · exact nofun
  · split
    · split
      · exact nofun
      · split
        · exact nofun
        · split <;> exact nofun
    · exact nofun

theorem Route.final_lawful {t : Route} {st : RouteState} {c : Option Cause} (hi : t.item ≠ 0) (hw : st ≠ .waiting)
    (hv : st = .verified → ({ t with state := st, cause := c } : Route).Vouched) : ({ t with state := st, cause := c } : Route).Lawful :=
  ⟨hi, fun h => absurd h hw, hv⟩

/-! ### The recall unit -/

theorem State.finishRoute_routes (s : State) (r : RouteId) (t : Route) (st : RouteState) (c : Option Cause) :
    (s.finishRoute r t st c).routes = (s.setRoute r (some { t with state := st, cause := c })).routes := by
  unfold State.finishRoute
  dsimp only
  split
  · exact State.setMonitor_routes ..
  · rfl

theorem State.appendFrames_routes (s : State) (r : RouteId) (t : Route) (p : RecallPacket) : (s.appendFrames r t p).routes = s.routes := by
  unfold State.appendFrames
  split
  · split
    · rfl
    · exact State.setMonitor_routes ..
  · rfl

theorem State.setRoute_routes (s t : State) (h : t.routes = s.routes) (r : RouteId) (u : Option Route) :
    (t.setRoute r u).routes = (s.setRoute r u).routes := by
  simp only [State.setRoute, h]

theorem State.setRoute_setRoute (s : State) (r : RouteId) (t u : Option Route) : (s.setRoute r t).setRoute r u = s.setRoute r u := by
  simp [State.setRoute]

/-- The routes that a RECALL at an active route leaves: one route moves, to a lawful one with the same item number. -/
theorem State.RoutesLawful.carried {s : State} (hs : s.RoutesLawful) {r : RouteId} {t : Route} (ht : s.route r = some t)
    (ha : t.active = true) (p : RecallPacket) (room : Bool) :
    let (t', carried) := t.carry p room
    let u := s.setRoute r (some t')
    let u := if carried = .accepted then u.appendFrames r t' p else u
    (if packetLast p && carried != .duplicate then u.finishRoute r t' t'.outcome.1 t'.outcome.2 else u).RoutesLawful := by
  have htl : t.Lawful := hs.2 r t ht
  have final (t' : Route) (hi : t'.item = t.item) : ({ t' with state := t'.outcome.1, cause := t'.outcome.2 } : Route).Lawful :=
    Route.final_lawful (hi ▸ htl.1) t'.outcome_ne_waiting Route.outcome_vouched
  have finish (t' : Route) (hi : t'.item = t.item) (u : State) (hu : u.routes = (s.setRoute r (some t')).routes) :
      (u.finishRoute r t' t'.outcome.1 t'.outcome.2).RoutesLawful := by
    refine (hs.moveRoute ht (u := { t' with state := t'.outcome.1, cause := t'.outcome.2 }) hi (final t' hi)).congr ?_
    rw [State.finishRoute_routes, State.setRoute_routes _ u hu, State.setRoute_setRoute]
  dsimp only
  obtain ⟨hstay, hnot⟩ | ⟨u, f, hstay, hc, -, -, -⟩ := t.carry_cases p room
  · generalize t.carry p room = tc at hstay hnot
    rw [if_neg hnot]
    split
    · exact finish tc.1 hstay.1 _ rfl
    · exact hs.moveRoute ht hstay.1 (hstay.lawful htl ha)
  · rw [hc, if_pos rfl]
    split
    · exact finish (u.accept p f) hstay.1 _ (State.appendFrames_routes ..)
    case isFalse hlast =>
      have notLast : packetLast p = false := by simpa using hlast
      refine (hs.moveRoute ht (u := u.accept p f) hstay.1 ⟨hstay.1 ▸ htl.1, ?_, ?_⟩).congr (State.appendFrames_routes ..)
      · simp [Route.accept, notLast]
      · simp [Route.accept, notLast]

theorem State.RoutesLawful.recall {s : State} (hs : s.RoutesLawful) (p : RecallPacket) : (s.recall p).RoutesLawful := by
  unfold State.recall
  split
  · exact hs
  · split
    · exact hs
    case h_2 t ht =>
      split
      case isTrue ha => exact hs.carried ht ha p _
      case isFalse =>
        obtain ⟨hi, hw, hv⟩ := hs.2 _ t ht
        exact hs.moveRoute ht rfl ⟨hi, hw, hv⟩

theorem State.RoutesLawful.idleOut {s : State} (hs : s.RoutesLawful) (r : RouteId) : (s.idleOut r).RoutesLawful := by
  unfold State.idleOut
  split
  case h_1 t ht =>
    split
    · exact (hs.moveRoute ht (u := { t with state := .incomplete, cause := some .timeout }) rfl
        (Route.final_lawful (hs.2 r t ht).1 nofun nofun)).congr (State.finishRoute_routes ..)
    · exact hs
  · exact hs

theorem routesLawful_empty {s : State} (h : ∀ r, s.route r = none) : s.RoutesLawful :=
  ⟨fun r _ _ _ ht => absurd ((h r).symm.trans ht) nofun, fun r _ ht => absurd ((h r).symm.trans ht) nofun⟩

theorem State.reset_route (r : RouteId) : State.reset.route r = none := by simp [State.route, State.reset]

theorem State.outputFrame_routes (s : State) (id : MonitorId) : (s.outputFrame id).routes = s.routes := by
  unfold State.outputFrame
  dsimp only
  split
  · split
    · split <;> exact State.setMonitor_routes ..
    · exact State.setMonitor_routes ..
  · split <;> exact State.setMonitor_routes ..
  · exact State.setMonitor_routes ..
  · exact State.setMonitor_routes ..

theorem State.flushFor_routes (s : State) (r : RouteId) (t : Route) : (s.flushFor r t).routes = s.routes := by
  unfold State.flushFor
  split
  · exact State.setMonitor_routes ..
  · rfl

/-- Every command keeps the routes in order. -/
theorem exec_routesLawful (c : Instr) (s : State) (hs : s.RoutesLawful) : Answers State.RoutesLawful (exec c s) := by
  have off (u t : State) (h : u.Off t) (hu : u.RoutesLawful) : t.RoutesLawful := hu.congr h.far.2.2.2.1
  have wired (u t : State) (h : u.Wired t) (hu : u.RoutesLawful) : t.RoutesLawful := hu.congr h.1
  refine exec_keeps ⟨fun u _ _ _ => routesLawful_empty State.reset_route, fun u _ => routesLawful_empty State.reset_route⟩
    (laneEventsKeep_of_off off)
    (linkEventsKeep_of_wired wired (fun u p _ (hu : (u.count _).RoutesLawful) => hu.recall p) (fun u r hu => hu.idleOut r)
      fun u id hu => hu.congr (u.outputFrame_routes id))
    (executes_of_cmd fun _ _ hu => hu) (laneCommandsKeep_of_off off) (partCommandsKeep_of_wired wired ?set ?clear ?select ?read) c s hs
  case set =>
    intro u r p hr hitem hne hu
    exact hu.setRoute ⟨hne, fun _ => ⟨rfl, rfl, rfl⟩, nofun⟩ fun q t _ ht => State.routeOf_none hitem q ht
  case clear =>
    intro u r t _ hu
    exact (hu.congr (u.flushFor_routes r t)).freeRoute r
  case select => exact fun u id source hu => hu.congr (State.setMonitor_routes ..)
  case read => exact fun u id hu => hu.congr (State.setMonitor_routes ..)

end Sys2Proof.Machine

namespace Sys2Proof.Machine

/-! ### Monitor ports -/

/-- The FIFO of a monitor port and its pace state agree (R151, R154). -/
def Paced (fifo : List Pair) (pace : Gate) : Prop :=
  fifo.length ≤ Config.fifoFrames ∧ (pace = .hold → 2048 < fifo.length) ∧ (6144 ≤ fifo.length → pace = .hold)

/-- The states that a port of routes may be in with its FIFO and its reference (R149, R152). -/
def InPlay (state : MonitorState) (fifo : List Pair) (ref : Option RouteRef) : Prop :=
  match state with
  | .silent => ref = none
  | .live => False
  | .filling => fifo.length < 2048 ∧ fifo ≠ [] ∧ ∃ f, ref = some f ∧ f.final = false
  | .playing => fifo ≠ [] ∧ ref.isSome
  | .starved => fifo.length < 2048 ∧ ∃ f, ref = some f ∧ f.final = false

theorem Monitor.Lawful.paced {m : Monitor} (h : m.Lawful) : Paced m.fifo m.pace := ⟨h.1, h.2.1, h.2.2.1⟩

theorem Monitor.lawful_routed {m : Monitor} (hs : m.source = .routed) :
    m.Lawful ↔ Paced m.fifo m.pace ∧ (m.ref = none → m.fifo = []) ∧ InPlay m.state m.fifo m.ref := by
  simp only [Monitor.Lawful, Paced, InPlay, hs, and_assoc] <;> rfl

theorem Monitor.lawful_of_inPlay {m : Monitor} (hs : m.source = .routed) (hp : Paced m.fifo m.pace) (hn : m.ref = none → m.fifo = [])
    (hi : InPlay m.state m.fifo m.ref) : m.Lawful := (Monitor.lawful_routed hs).mpr ⟨hp, hn, hi⟩

/-- What a monitor port has played and shows does not count for its order. -/
theorem Monitor.Lawful.congr {m n : Monitor} (h : m.Lawful) (hs : n.source = m.source) (ht : n.state = m.state) (hf : n.fifo = m.fifo)
    (hr : n.ref = m.ref) (hp : n.pace = m.pace) : n.Lawful := by
  simpa only [Monitor.Lawful, hs, ht, hf, hr, hp] using h

theorem Monitor.reset_lawful : Monitor.reset.Lawful := ⟨by decide, by decide, by decide, fun _ => rfl, rfl, rfl⟩

/-- A port that has a reference plays routes. -/
theorem Monitor.Lawful.routed {m : Monitor} (h : m.Lawful) {ref : RouteRef} (hr : m.ref = some ref) : m.source = .routed := by
  obtain ⟨-, -, -, -, h⟩ := h
  cases hs : m.source <;> simp only [hs, hr, reduceCtorEq, and_false] at h
  rfl

theorem paced_nil : Paced [] .go := ⟨by decide, nofun, by decide⟩

theorem Monitor.paceDown_eq (m : Monitor) : m.paceDown = { m with pace := m.paceDown.pace } := by
  unfold Monitor.paceDown
  split <;> rfl

/-- The pace state once frames have left the FIFO (R154). -/
theorem Paced.fall {fifo : List Pair} {m : Monitor} (h : Paced fifo m.pace) (hl : m.fifo.length ≤ fifo.length) :
    Paced m.fifo m.paceDown.pace := by
  obtain ⟨hbound, -, hup⟩ := h
  unfold Monitor.paceDown
  split
  case isTrue low => exact ⟨hl.trans hbound, nofun, by omega⟩
  case isFalse low => exact ⟨hl.trans hbound, fun _ => Nat.lt_of_not_le low, fun high => hup (high.trans hl)⟩

/-- The pace state once frames have been appended to the FIFO (R154). -/
theorem Monitor.paceUp_eq (m : Monitor) : m.paceUp = { m with pace := m.paceUp.pace } := by
  unfold Monitor.paceUp
  split <;> rfl

theorem Paced.rise {fifo : List Pair} {m : Monitor} (h : Paced fifo m.pace) (hl : fifo.length ≤ m.fifo.length)
    (room : m.fifo.length ≤ Config.fifoFrames) : Paced m.fifo m.paceUp.pace := by
  obtain ⟨-, hhold, -⟩ := h
  unfold Monitor.paceUp
  split
  case isTrue high => exact ⟨room, fun _ => by omega, fun _ => rfl⟩
  case isFalse high => exact ⟨room, fun hold => (hhold hold).trans_le hl, fun h => absurd h high⟩

/-- A flushed port holds no frame of any route, and its pace is GO. -/
theorem Monitor.flush_eq (m : Monitor) : m.flush = { m with fifo := [], ref := none, pace := .go } := rfl

theorem Monitor.select_lawful (m : Monitor) (source : Source) : (m.select source).Lawful := by
  unfold Monitor.select
  rw [Monitor.flush_eq]
  cases source
  case none => exact ⟨by simp, nofun, by simp, fun _ => rfl, rfl, rfl⟩
  case lane => exact ⟨by simp, nofun, by simp, fun _ => rfl, rfl, rfl⟩
  case routed => exact Monitor.lawful_of_inPlay rfl paced_nil (fun _ => rfl) rfl

theorem Monitor.Lawful.clearRoute {m : Monitor} (h : m.Lawful) (r : RouteId) : (m.clearRoute r).Lawful := by
  unfold Monitor.clearRoute
  split
  case h_1 ref hr =>
    split
    · have hs := h.routed hr
      rw [if_pos hs, Monitor.flush_eq]
      exact Monitor.lawful_of_inPlay hs paced_nil (fun _ => rfl) rfl
    · exact h
  · exact h

theorem Monitor.Lawful.routeFinal {m : Monitor} (h : m.Lawful) (r : RouteId) : (m.routeFinal r).Lawful := by
  unfold Monitor.routeFinal
  split
  case h_1 ref hs hr =>
    obtain ⟨hp, -, hst⟩ := (Monitor.lawful_routed hs).mp h
    split
    case isFalse => exact h
    case isTrue =>
      have playing (hne : m.fifo ≠ []) (n : Monitor) (hn : n.source = .routed) (hf : n.fifo = m.fifo) (hpace : n.pace = m.pace)
          (href : n.ref = some { ref with final := true }) (hstate : n.state = .playing) : n.Lawful := by
        rw [Monitor.lawful_routed hn, hf, hpace, href, hstate]
        exact ⟨hp, nofun, hne, rfl⟩
      dsimp only
      cases hm : m.state <;> rw [hm] at hst
      case silent => exact absurd (hr.symm.trans hst) nofun
      case live => exact hst.elim
      case filling => exact playing hst.2.1 _ hs rfl rfl rfl rfl
      case playing => exact playing hst.1 _ hs rfl rfl rfl rfl
      case starved =>
        dsimp only
        split
        case isTrue he => exact Monitor.lawful_of_inPlay hs hp (fun _ => List.isEmpty_iff.mp he) rfl
        case isFalse he => exact playing (fun e => he (List.isEmpty_iff.mpr e)) _ hs rfl rfl rfl rfl
  · exact h

/-- A frame that a PLAYING port puts out leaves its FIFO (R152, R154). -/
theorem Monitor.Lawful.played {m n : Monitor} (h : m.Lawful) (hs : n.source = m.source) (hst : n.state = .playing) {f : Pair}
    (hf : m.fifo = f :: n.fifo) (hp : n.pace = m.pace) {ref : RouteRef} (hm : m.ref = some ref) (hr : n.ref = some ref) :
    n.paceDown.afterPlayed.Lawful := by
  have routed : n.source = .routed := hs.trans (h.routed hm)
  have paced : Paced n.fifo n.paceDown.pace := Paced.fall (hp ▸ h.paced) (by simp [hf])
  rw [Monitor.paceDown_eq]
  generalize n.paceDown.pace = pace at paced
  unfold Monitor.afterPlayed
  dsimp only
  split
  case isTrue he =>
    have empty : n.fifo = [] := List.isEmpty_iff.mp he
    rw [hr]
    dsimp only
    split
    case isTrue => exact Monitor.lawful_of_inPlay routed paced (fun _ => empty) rfl
    case isFalse hfinal =>
      refine Monitor.lawful_of_inPlay routed paced (fun _ => empty) ⟨?_, ref, rfl, Bool.eq_false_iff.mpr hfinal⟩
      simp [empty]
  case isFalse he =>
    refine Monitor.lawful_of_inPlay routed paced (fun hn => absurd (hr.symm.trans hn) nofun) ?_
    dsimp only
    rw [hr, hst]
    exact ⟨fun e => he (List.isEmpty_iff.mpr e), rfl⟩

theorem Monitor.Lawful.paceUp {m : Monitor} (hs : m.source = .routed) {fifo : List Pair} (hp : Paced fifo m.pace)
    (hl : fifo.length ≤ m.fifo.length) (room : m.fifo.length ≤ Config.fifoFrames) {ref : RouteRef} (hr : m.ref = some ref)
    (hi : InPlay m.state m.fifo m.ref) : m.paceUp.Lawful := by
  have paced := hp.rise hl room
  rw [Monitor.paceUp_eq]
  exact Monitor.lawful_of_inPlay hs paced (fun hn => absurd (hr.symm.trans hn) nofun) hi

/-- Frames behind those of the same route (R151, R152). -/
theorem Monitor.Lawful.more {m : Monitor} (hs : m.source = .routed) (hp : Paced m.fifo m.pace) {ref : RouteRef} (hr : m.ref = some ref)
    (hst : m.state = .playing ∨ (m.state = .filling ∨ m.state = .starved) ∧ ref.final = false) {frames : List Pair} (hne : frames ≠ [])
    (room : m.fifo.length + frames.length ≤ Config.fifoFrames) :
    (({ m with fifo := m.fifo ++ frames } : Monitor).startPlaying).paceUp.Lawful := by
  have filled : m.fifo ++ frames ≠ [] := by simp [hne]
  have longer : m.fifo.length ≤ (m.fifo ++ frames).length := by simp
  have fits : (m.fifo ++ frames).length ≤ Config.fifoFrames := by simpa using room
  unfold Monitor.startPlaying
  dsimp only
  split
  case isTrue => exact Monitor.Lawful.paceUp hs hp longer fits hr ⟨filled, by simp [hr]⟩
  case isFalse hlow =>
    refine Monitor.Lawful.paceUp hs hp longer fits hr ?_
    dsimp only
    obtain hstate | ⟨hstate | hstate, hfinal⟩ := hst <;> rw [hstate] at hlow ⊢
    · exact ⟨filled, by simp [hr]⟩
    · exact ⟨by simpa using hlow, filled, ref, hr, hfinal⟩
    · exact ⟨by simpa using hlow, ref, hr, hfinal⟩

/-- Frames of a route appended to a port that has room for them (R151, R152). -/
theorem Monitor.Lawful.append {m : Monitor} (h : m.Lawful) (hs : m.source = .routed) (r : RouteId) (format : Format) (frames : List Pair)
    (hne : frames ≠ []) (room : m.hasRoom r frames.length = true) : (m.append r format frames).Lawful := by
  have notZero : (frames.length == 0) = false := by simp [hne]
  unfold Monitor.hasRoom at room
  rw [notZero, Bool.false_or] at room
  have fresh (fits : frames.length ≤ Config.fifoFrames) :
      (({ m.flush with state := .filling, ref := some ⟨r, format, false⟩, fifo := m.flush.fifo ++ frames } : Monitor).startPlaying).paceUp.Lawful :=
    Monitor.Lawful.more (m := { m.flush with state := .filling, ref := some ⟨r, format, false⟩ }) hs paced_nil rfl (.inr ⟨.inl rfl, rfl⟩) hne
      (by simpa [Monitor.flush_eq] using fits)
  unfold Monitor.append
  dsimp only
  cases hr : m.ref with
  | none =>
    simp only [hr, decide_eq_true_eq] at room
    exact fresh ((Nat.le_add_left ..).trans room)
  | some ref =>
    dsimp only
    simp only [hr] at room
    split at room
    case isTrue hroute =>
      rw [if_pos (beq_iff_eq.mpr hroute)]
      obtain ⟨hp, -, hst⟩ := (Monitor.lawful_routed hs).mp h
      refine Monitor.Lawful.more hs hp hr ?_ hne (of_decide_eq_true room)
      cases hm : m.state <;> rw [hm, hr] at hst
      case silent => exact nomatch hst
      case live => exact hst.elim
      case filling =>
        obtain ⟨-, -, f, e, hfinal⟩ := hst
        exact .inr ⟨.inl rfl, Option.some.inj e ▸ hfinal⟩
      case playing => exact .inl rfl
      case starved =>
        obtain ⟨-, f, e, hfinal⟩ := hst
        exact .inr ⟨.inr rfl, Option.some.inj e ▸ hfinal⟩
    case isFalse hroute =>
      rw [if_neg (by simpa using hroute)]
      exact fresh (of_decide_eq_true room)

end Sys2Proof.Machine

namespace Sys2Proof.Machine

theorem State.monitorsLawful_iff {s : State} : s.MonitorsLawful ↔ ∀ id, (s.monitor id).Lawful :=
  ⟨fun h id => by cases id; exacts [h.1, h.2], fun h => ⟨h .a, h .b⟩⟩

theorem State.monitor_setMonitor (s : State) (id : MonitorId) (m : Monitor) (k : MonitorId) :
    (s.setMonitor id m).monitor k = if k = id then m else s.monitor k := by
  cases id <;> cases k <;> rfl

theorem State.MonitorsLawful.setMonitor {s : State} (hs : s.MonitorsLawful) (id : MonitorId) {m : Monitor} (hm : m.Lawful) :
    (s.setMonitor id m).MonitorsLawful := by
  refine State.monitorsLawful_iff.mpr fun k => ?_
  rw [State.monitor_setMonitor]
  split
  · exact hm
  · exact State.monitorsLawful_iff.mp hs k

theorem State.MonitorsLawful.of {s : State} (hs : s.MonitorsLawful) (id : MonitorId) : (s.monitor id).Lawful :=
  State.monitorsLawful_iff.mp hs id

theorem State.MonitorsLawful.congr {s t : State} (hs : s.MonitorsLawful) (ha : t.monA = s.monA) (hb : t.monB = s.monB) : t.MonitorsLawful := by
  rwa [State.MonitorsLawful, ha, hb]

/-! ### The frames of a payload -/

theorem framesOne_length : ∀ (n : Nat) (bs : List Byte), bs.length = n * 3 → (framesOne bs).length = n
  | 0, bs, h => by
    obtain rfl : bs = [] := List.length_eq_zero_iff.mp (by omega)
    rfl
  | n + 1, x :: y :: z :: rest, h => by
    have ih := framesOne_length n rest (by simp only [List.length_cons] at h; omega)
    simp [framesOne, ih]
  | n + 1, [], h => by simp at h
  | n + 1, [_], h => by simp at h; omega
  | n + 1, [_, _], h => by simp at h; omega

theorem framesTwo_length : ∀ (n : Nat) (bs : List Byte), bs.length = n * 6 → (framesTwo bs).length = n
  | 0, bs, h => by
    obtain rfl : bs = [] := List.length_eq_zero_iff.mp (by omega)
    rfl
  | n + 1, x :: y :: z :: u :: v :: w :: rest, h => by
    have ih := framesTwo_length n rest (by simp only [List.length_cons] at h; omega)
    simp [framesTwo, ih]
  | n + 1, [], h => by simp at h
  | n + 1, [_], h => by simp at h; omega
  | n + 1, [_, _], h => by simp at h; omega
  | n + 1, [_, _, _], h => by simp at h; omega
  | n + 1, [_, _, _, _], h => by simp at h; omega
  | n + 1, [_, _, _, _, _], h => by simp at h; omega

theorem payloadFrames_length (channels : Channels) (n : Nat) (bs : List Byte) (h : bs.length = n * channels.count * 3) :
    (payloadFrames channels bs).length = n := by
  cases channels
  case one => exact framesOne_length n bs (by simpa [Channels.count] using h)
  case two => exact framesTwo_length n bs (by simp [Channels.count] at h; omega)

theorem packetFormat_channels {p : RecallPacket} {f : Format} (h : packetFormat p = some f) : p.channels.toNat = f.channels.count := by
  unfold packetFormat at h
  split at h
  case h_1 rate channels _ hc =>
    obtain rfl := Option.some.inj h
    unfold Channels.ofCode at hc
    split at hc
    case h_1 e =>
      obtain rfl := Option.some.inj hc
      exact e
    case h_2 e =>
      obtain rfl := Option.some.inj hc
      exact e
    case h_3 => exact nomatch hc
  case h_2 => exact nomatch h

/-! ### The recall unit at the ports -/

theorem State.playingPort_routed {s : State} {t : Route} {id : MonitorId} (h : s.playingPort t = some id) : (s.monitor id).source = .routed := by
  rw [State.playingPort, Option.filter_eq_some_iff] at h
  exact beq_iff_eq.mp h.2

theorem State.playingPort_congr {s u : State} {t v : Route} (ha : u.monA = s.monA) (hb : u.monB = s.monB) (hsink : v.sink = t.sink) :
    u.playingPort v = s.playingPort t := by
  simp only [State.playingPort, State.monitor_congr ha hb, hsink]

theorem State.MonitorsLawful.finishRoute {s : State} (hs : s.MonitorsLawful) (r : RouteId) (t : Route) (st : RouteState) (c : Option Cause) :
    (s.finishRoute r t st c).MonitorsLawful := by
  unfold State.finishRoute
  dsimp only
  have moved : (((s.setRoute r (some { t with state := st, cause := c })).raise (.routeDone r)).MonitorsLawful) := hs.congr rfl rfl
  split
  · exact moved.setMonitor _ ((moved.of _).routeFinal r)
  · exact moved

/-- The frames of an accepted packet find the room that its acceptance asked for (R141). -/
theorem State.MonitorsLawful.appendFrames {s : State} (hs : s.MonitorsLawful) {r : RouteId} {t : Route} {p : RecallPacket} {f : Format}
    (hf : t.format = some f) (hc : p.channels.toNat = f.channels.count)
    (hp : p.payload.length = p.frames.toNat * p.channels.toNat * 3) (room : s.roomFor r t p.frames.toNat = true) :
    (s.appendFrames r t p).MonitorsLawful := by
  unfold State.appendFrames
  split
  case h_1 id g hid hg =>
    obtain rfl := Option.some.inj (hg.symm.trans hf)
    split
    · exact hs
    case isFalse hne =>
      have long : (payloadFrames g.channels p.payload).length = p.frames.toNat := payloadFrames_length _ _ _ (hc ▸ hp)
      refine hs.setMonitor id ((hs.of id).append (State.playingPort_routed hid) r g _ (fun e => hne ?_) ?_)
      · rw [← long, e, List.length_nil]
      · rw [State.roomFor, hid] at room
        rwa [long]
  · exact hs

theorem State.MonitorsLawful.carried {s : State} (hs : s.MonitorsLawful) (r : RouteId) (t : Route) (p : RecallPacket)
    (hp : p.payload.length = p.frames.toNat * p.channels.toNat * 3) :
    let (t', carried) := t.carry p (s.roomFor r t p.frames.toNat)
    let u := s.setRoute r (some t')
    let u := if carried = .accepted then u.appendFrames r t' p else u
    (if packetLast p && carried != .duplicate then u.finishRoute r t' t'.outcome.1 t'.outcome.2 else u).MonitorsLawful := by
  have finish (u : State) (t' : Route) (hu : u.MonitorsLawful) (last : Bool) :
      (if last then u.finishRoute r t' t'.outcome.1 t'.outcome.2 else u).MonitorsLawful := by
    split
    · exact hu.finishRoute ..
    · exact hu
  dsimp only
  obtain ⟨-, hnot⟩ | ⟨u, f, hstay, hc, hroom, hformat, hu⟩ := t.carry_cases p (s.roomFor r t p.frames.toNat)
  · generalize t.carry p _ = tc at hnot
    rw [if_neg hnot]
    exact finish (s.setRoute r (some tc.1)) tc.1 hs _
  · rw [hc, if_pos rfl]
    have format : (u.accept p f).format = some f := by
      obtain hu | hu := hu <;> simp [Route.accept, hu]
    have sink : (u.accept p f).sink = t.sink := hstay.2.2.2.2.2
    refine finish _ _ (State.MonitorsLawful.appendFrames (s := s.setRoute r (some (u.accept p f))) hs format
      (packetFormat_channels hformat) hp ?_) _
    rw [← hroom, State.roomFor, State.roomFor,
      State.playingPort_congr (s := s) (u := s.setRoute r (some (u.accept p f))) (t := t) rfl rfl sink]
    rfl

theorem State.MonitorsLawful.recall {s : State} (hs : s.MonitorsLawful) (p : RecallPacket)
    (hp : p.payload.length = p.frames.toNat * p.channels.toNat * 3) : (s.recall p).MonitorsLawful := by
  unfold State.recall
  split
  · exact hs
  · split
    · exact hs
    · split
      · exact hs.carried _ _ p hp
      · exact hs

theorem State.MonitorsLawful.idleOut {s : State} (hs : s.MonitorsLawful) (r : RouteId) : (s.idleOut r).MonitorsLawful := by
  unfold State.idleOut
  split
  · split
    · exact hs.finishRoute ..
    · exact hs
  · exact hs

/-! ### The output of the ports -/

theorem State.MonitorsLawful.outputFrame {s : State} (hs : s.MonitorsLawful) (id : MonitorId) : (s.outputFrame id).MonitorsLawful := by
  have shown {m : Monitor} (h : m.source = (s.monitor id).source) (ht : m.state = (s.monitor id).state) (hf : m.fifo = (s.monitor id).fifo)
      (hr : m.ref = (s.monitor id).ref) (hp : m.pace = (s.monitor id).pace) : (s.setMonitor id m).MonitorsLawful :=
    hs.setMonitor id ((hs.of id).congr h ht hf hr hp)
  unfold State.outputFrame
  dsimp only
  split
  · split
    · split
      · exact shown rfl rfl rfl rfl rfl
      · refine State.MonitorsLawful.congr (s := s.setMonitor id _) ?_ rfl rfl
        exact shown rfl rfl rfl rfl rfl
    · exact shown rfl rfl rfl rfl rfl
  case h_2 hst =>
    split
    case h_1 f rest ref hfifo href => exact hs.setMonitor id ((hs.of id).played rfl hst hfifo rfl href href)
    case h_2 hnone =>
      have playing := (hs.of id)
      exfalso
      cases hsrc : (s.monitor id).source <;> simp only [Monitor.Lawful, hsrc, hst, reduceCtorEq, false_and, and_false] at playing
      obtain ⟨-, -, -, -, hfifo, href⟩ := playing
      obtain ⟨f, rest, e⟩ := List.exists_cons_of_ne_nil hfifo
      obtain ⟨ref, e'⟩ := Option.isSome_iff_exists.mp href
      exact hnone f rest ref e e'
  · exact shown rfl rfl rfl rfl rfl
  · exact shown rfl rfl rfl rfl rfl

theorem State.MonitorsLawful.flushFor {s : State} (hs : s.MonitorsLawful) (r : RouteId) (t : Route) : (s.flushFor r t).MonitorsLawful := by
  unfold State.flushFor
  split
  · exact hs.setMonitor _ ((hs.of _).clearRoute r)
  · exact hs

/-- Every command keeps the monitor ports in order. -/
theorem exec_monitorsLawful (c : Instr) (s : State) (hs : s.MonitorsLawful) : Answers State.MonitorsLawful (exec c s) := by
  have off (u t : State) (h : u.Off t) (hu : u.MonitorsLawful) : t.MonitorsLawful :=
    State.monitorsLawful_iff.mpr fun id => h.monitors id ▸ (hu.of id).congr rfl rfl rfl rfl rfl
  have wired (u t : State) (h : u.Wired t) (hu : u.MonitorsLawful) : t.MonitorsLawful := hu.congr h.2.1 h.2.2
  refine exec_keeps ⟨fun u _ _ _ => ⟨Monitor.reset_lawful, Monitor.reset_lawful⟩, fun u _ => ?_⟩
    (laneEventsKeep_of_off off)
    (linkEventsKeep_of_wired wired (fun u p hp hu => State.MonitorsLawful.recall (s := u.count _) hu p hp) (fun u r hu => hu.idleOut r)
      fun u id hu => hu.outputFrame id)
    (executes_of_cmd fun _ _ hu => hu) (laneCommandsKeep_of_off off)
    (partCommandsKeep_of_wired wired (fun u r p _ _ _ hu => hu) (fun u r t _ hu => hu.flushFor r t)
      (fun u id source hu => hu.setMonitor id (Monitor.select_lawful _ source))
      fun u id hu => hu.setMonitor id ((hu.of id).congr rfl rfl rfl rfl rfl)) c s hs
  exact ⟨Monitor.reset_lawful, Monitor.reset_lawful⟩

end Sys2Proof.Machine

namespace Sys2Proof.Proofs
open Sys2Proof.Machine

/-- Settles O58: every operation that a command is made of keeps the routes in order, and keeps the monitor ports in order. -/
theorem routesMonitorsKept : Obligations.RoutesMonitorsKept := by
  refine ⟨fun s t hs ht => ?_, fun s t hs ht => ?_⟩
  · exact step_keeps_of_answers (fun _ _ h => h) exec_routesLawful s t hs ht
  · exact step_keeps_of_answers (fun _ _ h => h) exec_monitorsLawful s t hs ht

end Sys2Proof.Proofs

/-! What every step keeps of the command queue, the link receiver and the notices (R157, R159, R161, R165). -/

namespace Sys2Proof.Machine

/-! ### The link and its notices -/

/-- The receiver, the transmitter and the notices in order; the command queue with `k` places taken besides. -/
def Linked (k : Nat) (cmd : CommandUnit) (rx : Receiver) (beenUp : Bool) (inFlight : Option InFlight) (notices : List Notice) : Prop :=
  cmd.done.length + cmd.waiting.length + k ≤ Config.commandPlaces ∧
    rx.align ≤ 64 ∧ (rx.state = .aligning → rx.align < 64) ∧ rx.run ≤ 8 ∧ (rx.state = .up → rx.run < 8) ∧
    (notices.map Notice.flag).Nodup ∧ (rx.state = .up → beenUp = true) ∧
    (rx.state ≠ .up → inFlight = none ∧ rx.packet = none ∧ notices = [])

/-- The link in order while `k` commands besides those of the queue have their place. -/
def State.Linked (k : Nat) (s : State) : Prop := Machine.Linked k s.cmd s.rx s.tx.beenUp s.tx.inFlight s.events.notices

theorem State.linked_zero {s : State} : s.Linked 0 ↔ s.LinkLawful := Iff.rfl

/-- From `s` to `t` the command queue, the receiver and the packet in flight have stayed; flags may have been raised. -/
structure State.Calm (s t : State) : Prop where
  rx : t.rx = s.rx
  done : t.cmd.done = s.cmd.done
  waiting : t.cmd.waiting = s.cmd.waiting
  beenUp : t.tx.beenUp = s.tx.beenUp
  inFlight : t.tx.inFlight = s.tx.inFlight
  events : s.events.Raised t.events s.linkUp

theorem State.calm_refl (s : State) : s.Calm s := ⟨rfl, rfl, rfl, rfl, rfl, EventUnit.raised_of_notices _ rfl⟩

theorem State.Calm.trans {s t u : State} (h : s.Calm t) (k : t.Calm u) : s.Calm u where
  rx := k.rx.trans h.rx
  done := k.done.trans h.done
  waiting := k.waiting.trans h.waiting
  beenUp := k.beenUp.trans h.beenUp
  inFlight := k.inFlight.trans h.inFlight
  events := h.events.trans (by rw [State.linkUp, ← h.rx]; exact k.events)

theorem State.Calm.of {s t u : State} (k : t.Calm u) (h : s.Calm t) : s.Calm u := h.trans k

theorem State.calm_of_same {s t : State} (hrx : t.rx = s.rx) (hcmd : t.cmd = s.cmd) (hup : t.tx.beenUp = s.tx.beenUp)
    (hflight : t.tx.inFlight = s.tx.inFlight) (hn : t.events.notices = s.events.notices) : s.Calm t :=
  ⟨hrx, hcmd ▸ rfl, hcmd ▸ rfl, hup, hflight, EventUnit.raised_of_notices _ hn⟩

theorem State.Off.calm {s t : State} (h : s.Off t) : s.Calm t := by
  obtain ⟨htx, hrx, hcmd, -⟩ := h.far
  exact ⟨hrx, hcmd ▸ rfl, hcmd ▸ rfl, htx ▸ rfl, htx ▸ rfl, h.events⟩

theorem State.Linked.calm {k : Nat} {s t : State} (hs : s.Linked k) (h : s.Calm t) : t.Linked k := by
  obtain ⟨hplaces, hal, ha, hrl, hr, hn, hb, hidle⟩ := hs
  refine ⟨h.done ▸ h.waiting ▸ hplaces, h.rx ▸ hal, h.rx ▸ ha, h.rx ▸ hrl, h.rx ▸ hr, h.events.1 hn, h.rx ▸ h.beenUp ▸ hb, fun hne => ?_⟩
  rw [h.rx] at hne ⊢
  obtain ⟨hf, hp, he⟩ := hidle hne
  exact ⟨h.inFlight.trans hf, hp, (h.events.2 (by simpa [State.linkUp] using hne)).trans he⟩

/-! ### What leaves the link -/

theorem State.raise_calm (s : State) (f : Flag) (i : Item) : s.Calm (s.raise f i) := ⟨rfl, rfl, rfl, rfl, rfl, s.events.raise_raised _ f i⟩

theorem State.takeHoldLimit_calm (s : State) : s.Calm s.takeHoldLimit := by
  unfold State.takeHoldLimit
  split
  · split
    · exact State.Calm.of (State.raise_calm _ _ _) (State.calm_of_same rfl rfl rfl rfl rfl)
    · exact s.calm_refl
  · exact s.calm_refl

theorem State.holdTick_calm (s : State) : s.Calm s.holdTick := by
  unfold State.holdTick
  split
  · exact State.calm_of_same rfl rfl rfl rfl rfl
  · exact s.calm_refl

theorem State.setMonitor_calm (s : State) (id : MonitorId) (m : Monitor) : s.Calm (s.setMonitor id m) := by
  cases id <;> exact State.calm_of_same rfl rfl rfl rfl rfl

theorem State.outputFrame_calm (s : State) (id : MonitorId) : s.Calm (s.outputFrame id) := by
  unfold State.outputFrame
  dsimp only
  split
  · split
    · split
      · exact s.setMonitor_calm id _
      · exact (s.setMonitor_calm id _).trans (State.calm_of_same rfl rfl rfl rfl rfl)
    · exact s.setMonitor_calm id _
  · split
    · exact s.setMonitor_calm id _
    · exact s.setMonitor_calm id _
  · exact s.setMonitor_calm id _
  · exact s.setMonitor_calm id _

theorem State.setRoute_calm (s : State) (r : RouteId) (t : Option Route) : s.Calm (s.setRoute r t) := State.calm_of_same rfl rfl rfl rfl rfl

theorem State.finishRoute_calm (s : State) (r : RouteId) (t : Route) (st : RouteState) (c : Option Cause) : s.Calm (s.finishRoute r t st c) := by
  have told := (s.setRoute_calm r (some { t with state := st, cause := c })).trans (State.raise_calm _ (.routeDone r) 0)
  unfold State.finishRoute
  dsimp only
  split
  · exact told.trans (State.setMonitor_calm ..)
  · exact told

theorem State.appendFrames_calm (s : State) (r : RouteId) (t : Route) (p : RecallPacket) : s.Calm (s.appendFrames r t p) := by
  unfold State.appendFrames
  split
  · split
    · exact s.calm_refl
    · exact s.setMonitor_calm ..
  · exact s.calm_refl

theorem State.flushFor_calm (s : State) (r : RouteId) (t : Route) : s.Calm (s.flushFor r t) := by
  unfold State.flushFor
  split
  · exact s.setMonitor_calm ..
  · exact s.calm_refl

theorem State.recall_calm (s : State) (p : RecallPacket) : s.Calm (s.recall p) := by
  unfold State.recall
  split
  · exact s.raise_calm ..
  case h_2 r _ =>
    split
    · exact s.calm_refl
    case h_2 t _ =>
      split
      · dsimp only
        generalize t.carry p _ = tc
        have moved : s.Calm (if tc.2 = .accepted then (s.setRoute r (some tc.1)).appendFrames r tc.1 p else s.setRoute r (some tc.1)) := by
          split
          · exact (s.setRoute_calm r _).trans (State.appendFrames_calm ..)
          · exact s.setRoute_calm r _
        split
        · exact moved.trans (State.finishRoute_calm ..)
        · exact moved
      · exact s.setRoute_calm r _

theorem State.idleOut_calm (s : State) (r : RouteId) : s.Calm (s.idleOut r) := by
  unfold State.idleOut
  split
  · split
    · exact s.finishRoute_calm ..
    · exact s.calm_refl
  · exact s.calm_refl

theorem foldl_unmark_notices (fs : List Flag) (ev : EventUnit) : (fs.foldl EventUnit.unmark ev).notices = ev.notices := by
  induction fs generalizing ev with
  | nil => rfl
  | cons f fs ih =>
    refine (ih _).trans ?_
    cases f <;> rfl

theorem foldl_raise_calm (fs : List Flag) (s : State) : s.Calm (fs.foldl (fun s f => s.raise f) s) := by
  induction fs generalizing s with
  | nil => exact s.calm_refl
  | cons f fs ih => exact (s.raise_calm f 0).trans (ih _)

theorem partCommandsKeep_of_calm {P : State → Prop} (h : ∀ s t, State.Calm s t → P s → P t) : PartCommandsKeep P where
  deviceResetCommand _ s hs := h s _ ⟨rfl, rfl, rfl, rfl, rfl, EventUnit.raised_of_notices _ rfl⟩ hs
  linkStats _ s hs := h s _ (State.calm_of_same rfl rfl rfl rfl rfl) hs
  eventRead ps s hs := by
    unfold eventRead
    split
    · exact h s _ (State.calm_of_same rfl rfl rfl rfl (foldl_unmark_notices _ _)) hs
    · exact hs
  eventMask ps s hs := by
    unfold eventMask
    dsimp only
    split
    · exact h s _ (State.Calm.of (State.takeHoldLimit_calm _) (State.calm_of_same rfl rfl rfl rfl rfl)) hs
    · exact hs
  eventForce ps s hs := by
    unfold eventForce
    split
    · exact h s _ (foldl_raise_calm _ s) hs
    · exact hs
  routeSet ps s hs := by
    unfold routeSet
    split
    · exact hs
    · split
      · exact hs
      · split
        · exact hs
        · split
          · exact hs
          · exact h s _ (s.setRoute_calm ..) hs
  routeClear ps s hs := by
    unfold routeClear
    split
    · exact hs
    case h_2 r _ =>
      split
      · exact hs
      case h_2 t _ =>
        have unmarked (u : State) : u.Calm { u with events := u.events.unmark (.routeDone r) } := State.calm_of_same rfl rfl rfl rfl rfl
        exact h s _ (((s.flushFor_calm r t).trans (unmarked _)).trans (State.setRoute_calm ..)) hs
  monitorSelect ps s hs := by
    unfold monitorSelect
    split
    · exact h s _ (s.setMonitor_calm ..) hs
    · split
      · exact h s _ (s.setMonitor_calm ..) hs
      · exact hs
    · exact h s _ (s.setMonitor_calm ..) hs
    · exact hs
  monitorStatus ps s hs := by
    unfold monitorStatus
    split
    · exact hs
    · exact h s _ (s.setMonitor_calm ..) hs

/-! ### The link itself -/

theorem State.breakPacket_rx (s : State) : s.breakPacket.rx = { s.rx with packet := none } := by
  unfold State.breakPacket
  split
  · rfl
  case h_2 h => rw [← h]

theorem State.breakPacket_far (s : State) : s.breakPacket.tx.beenUp = s.tx.beenUp ∧ s.breakPacket.tx.inFlight = s.tx.inFlight ∧
    s.breakPacket.cmd = s.cmd ∧ s.breakPacket.events = s.events := by
  unfold State.breakPacket
  split <;> exact ⟨rfl, rfl, rfl, rfl⟩

/-- A packet broken off leaves a link in order. -/
theorem State.Linked.breakPacket {k : Nat} {s : State} (hs : s.Linked k) : s.breakPacket.Linked k := by
  obtain ⟨hup, hflight, hcmd, hev⟩ := s.breakPacket_far
  obtain ⟨hplaces, hal, ha, hrl, hr, hn, hb, hidle⟩ := hs
  rw [State.Linked, hup, hflight, hcmd, hev, s.breakPacket_rx]
  exact ⟨hplaces, hal, ha, hrl, hr, hn, hb, fun hne => ⟨(hidle hne).1, rfl, (hidle hne).2.2⟩⟩

/-- The departure from UP leaves a link that is DOWN and idle. -/
theorem State.leaveUp_linked {k : Nat} {s : State} (hplaces : s.cmd.done.length + s.cmd.waiting.length + k ≤ Config.commandPlaces)
    (hal : s.rx.align ≤ 64) (hrl : s.rx.run ≤ 8) : s.leaveUp.Linked k := by
  obtain ⟨-, hflight, hcmd, -⟩ := s.cutOff.breakPacket_far
  have hrx : s.leaveUp.rx = { s.rx with packet := none, state := .down } :=
    congrArg (fun rx : Receiver => { rx with state := .down }) s.cutOff.breakPacket_rx
  have hdone : s.leaveUp.cmd.done = s.cmd.done := (congrArg CommandUnit.done hcmd :)
  have hwaiting : s.leaveUp.cmd.waiting = s.cmd.waiting := (congrArg CommandUnit.waiting hcmd :)
  refine ⟨by rwa [hdone, hwaiting], hrx ▸ hal, hrx ▸ nofun, hrx ▸ hrl, hrx ▸ nofun, List.nodup_nil, hrx ▸ nofun, fun _ => ⟨hflight, hrx ▸ rfl, rfl⟩⟩

/-- A word in ALIGNING: one more idle word, or UP with the STATUS notice alone. -/
theorem State.Linked.alignWord {k : Nat} {s : State} (hs : s.Linked k) (ha : s.rx.state = .aligning) (w : LinkWord) : (s.alignWord w).Linked k := by
  obtain ⟨hplaces, hal, hlt, hrl, hr, hn, hb, hidle⟩ := hs
  have low : s.rx.align < 64 := hlt ha
  obtain ⟨hflight, hpacket, hnone⟩ := hidle (by simp [ha])
  unfold State.alignWord
  dsimp only
  split
  · split
    · refine ⟨hplaces, low, nofun, Nat.zero_le 8, fun _ => Nat.zero_lt_succ 7, ?_, fun _ => rfl, fun h => absurd rfl h⟩
      show ((s.events.notices ++ [Notice.status]).map Notice.flag).Nodup
      simp [hnone]
    case isFalse hlow =>
      exact ⟨hplaces, low, fun _ => Nat.lt_of_not_le hlow, hrl, hr, hn, hb, hidle⟩
  · exact ⟨hplaces, by simp, fun _ => by simp, hrl, hr, hn, hb, hidle⟩

/-- What a receiver that stays UP takes up leaves a link in order. -/
theorem State.Linked.receiving {k : Nat} {s : State} (hs : s.Linked k) (hup : s.rx.state = .up) {rx : Receiver} (h : rx.state = .up)
    (hal : rx.align = s.rx.align) (hrun : rx.run < 8) : ({ s with rx := rx } : State).Linked k := by
  obtain ⟨hplaces, hall, -, -, -, hn, hb, -⟩ := hs
  exact ⟨hplaces, hal ▸ hall, fun e => absurd (h.symm.trans e) nofun, hrun.le, fun _ => hrun, hn, fun _ => hb hup, fun hne => absurd h hne⟩

theorem State.Linked.receiveCommand {k : Nat} {s : State} (hs : s.Linked k) (hk : k = 0) (c : Command) : (s.receiveCommand c).Linked k := by
  unfold State.receiveCommand
  dsimp only
  split
  case isTrue room =>
    obtain ⟨-, hal, ha, hrl, hr, hn, hb, hidle⟩ := hs
    refine ⟨?_, hal, ha, hrl, hr, hn, hb, hidle⟩
    subst hk
    simp only [List.length_append, List.length_singleton]
    exact (Nat.add_assoc ..).symm.trans_le room
  case isFalse => exact hs.calm (State.Calm.of (State.raise_calm _ _ _) (State.calm_of_same rfl rfl rfl rfl rfl))

theorem State.receiveRecall_calm (s : State) (p : RecallPacket) : s.Calm (s.receiveRecall p) :=
  State.Calm.of (State.recall_calm _ p) (State.calm_of_same rfl rfl rfl rfl rfl)

theorem State.receiveGate_calm (s : State) (g : Byte) : s.Calm (s.receiveGate g) := State.calm_of_same rfl rfl rfl rfl rfl

theorem State.countMalformed_calm (s : State) : s.Calm s.countMalformed := State.calm_of_same rfl rfl rfl rfl rfl

theorem State.Linked.receivePacket {s : State} (hs : s.Linked 0) (bytes : List Byte) : (s.receivePacket bytes).Linked 0 := by
  have bad : s.countMalformed.Linked 0 := hs.calm s.countMalformed_calm
  unfold State.receivePacket
  dsimp only
  split
  · exact bad
  · split
    · split
      · split
        · exact hs.receiveCommand rfl _
        · exact bad
      · split
        · split
          · exact hs.calm (s.receiveRecall_calm _)
          · exact bad
        · split
          · split
            · exact hs.calm (s.receiveGate_calm _)
            · exact bad
          · exact bad
    · exact bad

theorem State.Linked.upWord {s : State} (hs : s.Linked 0) (hup : s.rx.state = .up) (w : LinkWord) : (s.upWord w).Linked 0 := by
  have hrun : s.rx.run < 8 := hs.2.2.2.2.1 hup
  have taken {rx : Receiver} (h : rx.state = .up) (hal : rx.align = s.rx.align) (hrun : rx.run < 8) : ({ s with rx := rx } : State).Linked 0 :=
    hs.receiving hup h hal hrun
  unfold State.upWord
  split
  · dsimp only
    have broken : s.breakPacket.Linked 0 := hs.breakPacket
    have brokenUp : s.breakPacket.rx.state = .up := by rw [State.breakPacket_rx]; exact hup
    have brokenRun : s.breakPacket.rx.run = s.rx.run := by rw [State.breakPacket_rx]
    split
    · exact State.leaveUp_linked broken.1 broken.2.1 (by show s.breakPacket.rx.run + 1 ≤ 8; omega)
    case isFalse hlow => exact broken.receiving brokenUp brokenUp rfl (Nat.lt_of_not_le hlow)
  · exact (taken (rx := { s.rx with run := 0 }) hup rfl (Nat.zero_lt_succ 7)).breakPacket
  · have broken := (taken (rx := { s.rx with run := 0 }) hup rfl (Nat.zero_lt_succ 7)).breakPacket
    have brokenUp : (State.breakPacket { s with rx := { s.rx with run := 0 } }).rx.state = .up := by rw [State.breakPacket_rx]; exact hup
    refine broken.receiving brokenUp brokenUp rfl ?_
    show (State.breakPacket { s with rx := { s.rx with run := 0 } }).rx.run < 8
    rw [State.breakPacket_rx]
    exact Nat.zero_lt_succ 7
  · exact taken hup rfl (by simp)
  · split
    · exact (taken (rx := { s.rx with run := 0, packet := none }) hup rfl (by simp)).receivePacket _
    · exact taken hup rfl (by simp)

theorem State.Linked.receiveWord {s : State} (hs : s.Linked 0) (w : LinkWord) : (s.receiveWord w).Linked 0 := by
  unfold State.receiveWord
  split
  case h_1 h => exact hs.upWord h w
  case h_2 h => exact hs.alignWord h w
  case h_3 h =>
    split
    · refine State.Linked.alignWord (s := { s with rx := { s.rx with state := .aligning, align := 0 } }) ?_ rfl w
      obtain ⟨hplaces, hal, ha, hrl, hr, hn, hb, hidle⟩ := hs
      exact ⟨hplaces, by simp, fun _ => by simp, hrl, nofun, hn, nofun, fun _ => hidle (by simp [h])⟩
    · exact hs

theorem State.Linked.signalAppears {k : Nat} {s : State} (hs : s.Linked k) : s.signalAppears.Linked k := by
  obtain ⟨hplaces, hal, ha, hrl, hr, hn, hb, hidle⟩ := hs
  unfold State.signalAppears
  split
  case h_1 h => exact ⟨hplaces, by simp, fun _ => by simp, hrl, nofun, hn, nofun, fun _ => hidle (by simp [h])⟩
  · exact ⟨hplaces, hal, ha, hrl, hr, hn, hb, hidle⟩

theorem State.Linked.signalLost {k : Nat} {s : State} (hs : s.Linked k) : s.signalLost.Linked k := by
  obtain ⟨hplaces, hal, ha, hrl, hr, hn, hb, hidle⟩ := hs
  unfold State.signalLost
  dsimp only
  split
  · exact State.leaveUp_linked hplaces hal hrl
  case h_2 h => exact ⟨hplaces, hal, nofun, hrl, nofun, hn, nofun, fun _ => hidle (by simp [h])⟩
  · exact ⟨hplaces, hal, ha, hrl, hr, hn, hb, hidle⟩

/-- The transmitter begins a packet only with the link UP. -/
theorem State.Linked.transmit {k : Nat} {s : State} (hs : s.Linked k) : s.transmit.Linked k := by
  unfold State.transmit
  dsimp only
  split
  · exact hs
  case isFalse hfree =>
    have up : s.rx.state = .up := by
      simp only [State.linkUp, Bool.or_eq_true, Bool.not_eq_eq_eq_not, Bool.not_true, not_or, Bool.not_eq_false, beq_iff_eq] at hfree
      exact hfree.1
    obtain ⟨hplaces, hal, ha, hrl, hr, hn, hb, -⟩ := hs
    have begun {n : List Notice} (h : (n.map Notice.flag).Nodup) (f : Option InFlight) : Machine.Linked k s.cmd s.rx s.tx.beenUp f n :=
      ⟨hplaces, hal, ha, hrl, hr, h, hb, fun hne => absurd up hne⟩
    split
    · exact begun hn _
    · split
      · exact begun hn _
      · split
        case h_1 e =>
          refine begun ?_ _
          rw [e, List.map_cons] at hn
          exact hn.tail
        · split
          · exact begun hn _
          · exact begun hn _

theorem State.grant_calm (s : State) : s.Calm s.grant := by
  obtain ⟨lanes, waiting, e, -⟩ := State.grantLoop_eq s.memory.waiting.length s
  rw [State.grant, e]
  exact State.calm_of_same rfl rfl rfl rfl rfl

theorem State.Linked.complete {k : Nat} {s : State} (hs : s.Linked k) : s.complete.Linked k := by
  unfold State.complete
  split
  · exact hs
  case h_2 f hf =>
    obtain ⟨hplaces, hal, ha, hrl, hr, hn, hb, hidle⟩ := hs
    have sent : ({ s with tx := { s.tx with inFlight := none } } : State).Linked k :=
      ⟨hplaces, hal, ha, hrl, hr, hn, hb, fun hne => ⟨rfl, (hidle hne).2⟩⟩
    dsimp only
    split
    · exact sent.calm (State.calm_of_same rfl rfl rfl rfl rfl)
    · exact sent.calm (State.Calm.of (State.grant_calm _) (State.calm_of_same rfl rfl rfl rfl rfl))
    · split <;> exact sent.calm (State.calm_of_same rfl rfl rfl rfl rfl)
    · refine ⟨?_, hal, ha, hrl, hr, hn, hb, fun hne => ⟨rfl, (hidle hne).2⟩⟩
      show (s.cmd.done.drop 1).length + s.cmd.waiting.length + k ≤ Config.commandPlaces
      rw [List.length_drop]
      omega

theorem linkedEventsKeep : LinkEventsKeep (State.Linked 0) where
  signal _ _ _ hs := hs
  signalAppears _ hs := hs.signalAppears
  signalLost _ hs := hs.signalLost
  receiveWord _ w hs := hs.receiveWord w
  dropPacket s hs := by
    obtain ⟨hplaces, hal, ha, hrl, hr, hn, hb, hidle⟩ := hs
    exact ⟨hplaces, hal, ha, hrl, hr, hn, hb, fun hne => ⟨(hidle hne).1, rfl, (hidle hne).2.2⟩⟩
  receiveCommand _ c hs := hs.receiveCommand rfl c
  receiveRecall s p _ hs := hs.calm (s.receiveRecall_calm p)
  receiveGate s g hs := hs.calm (s.receiveGate_calm g)
  countMalformed s hs := hs.calm s.countMalformed_calm
  idleOut s r hs := hs.calm (s.idleOut_calm r)
  takeHoldLimit s hs := hs.calm s.takeHoldLimit_calm
  holdTick s hs := hs.calm s.holdTick_calm
  transmit _ hs := hs.transmit
  complete _ hs := hs.complete
  outputFrame s id hs := hs.calm (s.outputFrame_calm id)

theorem linkedResetsKeep : ResetsKeep (State.Linked 0) where
  resetAll _ _ _ _ := ⟨Nat.zero_le _, by simp [State.resetAll], by simp [State.resetAll], by simp [State.resetAll], nofun, List.nodup_nil, nofun,
    fun _ => ⟨rfl, rfl, rfl⟩⟩
  deviceReset s hs := by
    obtain ⟨-, hal, ha, hrl, hr, -, hb, hidle⟩ := hs
    refine ⟨Nat.zero_le _, hal, ha, hrl, hr, ?_, hb, fun hne => ⟨rfl, (hidle hne).2.1, if_neg ?_⟩⟩
    · show ((if s.linkUp then [.status] else []).map Notice.flag).Nodup
      split <;> simp
    · have down : s.rx.state ≠ .up := hne
      simpa [State.linkUp] using down

/-- A command that is executed keeps its place for its reply (R161). -/
theorem linkedExecutes : Executes (State.Linked 0) (State.Linked 1) where
  take s c rest hs hw := by
    obtain ⟨hplaces, hal, ha, hrl, hr, hn, hb, hidle⟩ := hs
    refine ⟨?_, hal, ha, hrl, hr, hn, hb, hidle⟩
    show s.cmd.done.length + (s.cmd.waiting.drop 1).length + 1 ≤ Config.commandPlaces
    rw [hw, List.length_cons] at hplaces
    rw [hw, List.drop_one, List.tail_cons]
    omega
  reply r c hr := by
    obtain ⟨hplaces, hal, ha, hrl, hrun, hn, hb, hidle⟩ := hr
    refine ⟨?_, hal, ha, hrl, hrun, hn, hb, hidle⟩
    simp only [Reaction.reply, List.length_append, List.length_singleton]
    omega

/-- Every command keeps the link in order. -/
theorem exec_linkLawful (c : Instr) (s : State) (hs : s.LinkLawful) : Answers State.LinkLawful (exec c s) :=
  exec_keeps linkedResetsKeep (laneEventsKeep_of_off fun _ _ h hs => State.Linked.calm hs h.calm) linkedEventsKeep linkedExecutes
    (laneCommandsKeep_of_off fun _ _ h hs => State.Linked.calm hs h.calm)
    (partCommandsKeep_of_calm fun _ _ h hs => State.Linked.calm hs h) c s (State.linked_zero.mpr hs)

end Sys2Proof.Machine

namespace Sys2Proof.Proofs
open Sys2Proof.Machine

/-- Settles O57: every operation that a command is made of keeps the link in order, a command that is executed with its place kept for the reply. -/
theorem linkKept : Obligations.LinkKept := step_keeps_of_answers (fun _ _ h => h) exec_linkLawful

end Sys2Proof.Proofs

/-! What every step keeps of the profiles, the ports, the rings and the dropout timers (R23, R41, R87, R94, R108). -/

namespace Sys2Proof.Machine

/-! ### What the cutting engine leaves of the lanes -/

/-- From `x` to `y` the cutting engine has worked: the profile, the port and the ring stand, and an open item has the dropout timer that the open item had
before, or is new, on a LOCKED port, and runs none (R26, R32, R41). -/
def Lane.Works (x y : Lane) : Prop :=
  y.profile = x.profile ∧ y.port = x.port ∧ y.ring = x.ring ∧
    ∀ p, y.item = some p → (∃ o, x.item = some o ∧ p.dropout = o.dropout) ∨ (p.dropout = none ∧ x.port.lock = .locked)

/-- The cutting engine has worked, on whatever lanes. -/
def State.Works (s t : State) : Prop := ∀ k, (s.lane k).Works (t.lane k)

theorem Lane.works_refl (x : Lane) : x.Works x := ⟨rfl, rfl, rfl, fun p hp => .inl ⟨p, hp, rfl⟩⟩

theorem Lane.Works.trans {x y z : Lane} (h : x.Works y) (k : y.Works z) : x.Works z := by
  obtain ⟨hp, hport, hr, hi⟩ := h
  obtain ⟨kp, kport, kr, ki⟩ := k
  refine ⟨kp.trans hp, kport.trans hport, kr.trans hr, fun r hr => ?_⟩
  obtain ⟨o, ho, e⟩ | ⟨e, hl⟩ := ki r hr
  · rw [e]
    exact hi o ho
  · exact .inr ⟨e, hport ▸ hl⟩

/-- A lane rewritten outside its profile, its port, its ring and its open slot. -/
theorem Lane.works_of_same {x y : Lane} (hp : y.profile = x.profile) (hport : y.port = x.port) (hr : y.ring = x.ring) (hi : y.item = x.item) : x.Works y :=
  ⟨hp, hport, hr, fun p h => .inl ⟨p, hi ▸ h, rfl⟩⟩

/-- A lane rewritten outside its profile, its port and its ring, its open slot empty. -/
theorem Lane.works_of_empty {x y : Lane} (hp : y.profile = x.profile) (hport : y.port = x.port) (hr : y.ring = x.ring) (hi : y.item = none) : x.Works y :=
  ⟨hp, hport, hr, fun _ h => absurd (hi.symm.trans h) nofun⟩

theorem State.works_refl (s : State) : s.Works s := fun k => (s.lane k).works_refl

theorem State.Works.trans {s t u : State} (h : s.Works t) (k : t.Works u) : s.Works u := fun l => (h l).trans (k l)

theorem State.works_of_lanes {s t : State} (h : t.lanes = s.lanes) : s.Works t := fun k => by
  rw [State.lane_congr h]
  exact (s.lane k).works_refl

theorem State.raise_works (s : State) (f : Flag) (i : Item) : s.Works (s.raise f i) := State.works_of_lanes rfl

theorem State.setLane_works (s : State) (l : LaneId) {x : Lane} (h : (s.lane l).Works x) : s.Works (s.setLane l x) := fun k => by
  rw [State.lane_setLane_eq]
  split
  case isTrue e => exact e ▸ h
  case isFalse => exact (s.lane k).works_refl

theorem State.mapItem_works (s : State) (l : LaneId) (f : OpenItem → OpenItem) (h : ∀ o, (f o).dropout = o.dropout) : s.Works (s.mapItem l f) := by
  refine s.setLane_works l ⟨rfl, rfl, rfl, fun p hp => .inl ?_⟩
  obtain ⟨o, ho, rfl⟩ := Option.map_eq_some_iff.mp hp
  exact ⟨o, ho, h o⟩

theorem State.Granted.works {s : State} {k : LaneId} {y : Lane} (h : s.Granted k y) : (s.lane k).Works y := by
  obtain rfl | ⟨o, ho, -, rfl⟩ := h
  · exact Lane.works_refl _
  · exact ⟨rfl, rfl, rfl, fun p hp => .inl ⟨o, ho, by rw [← Option.some.inj hp]⟩⟩

/-- The engine has worked on the lane itself, and a buffer may have been granted to another lane. -/
theorem State.Local.works {l : LaneId} {s t : State} (h : State.Local l s t) (hl : (s.lane l).Works (t.lane l)) : s.Works t := fun k => by
  by_cases e : k = l
  · exact e ▸ hl
  · exact (h.others k e).works

theorem State.closeItem_works (s : State) (l : LaneId) (r : CloseReason) : s.Works (s.closeItem l r) := by
  refine (s.closeItem_local l r).works ?_
  cases ho : (s.lane l).item with
  | none =>
    rw [State.closeItem, ho]
    exact Lane.works_refl _
  | some o =>
    rw [(s.closeItem_itemCloses l r ho).1]
    exact Lane.works_of_empty rfl rfl rfl rfl

theorem State.passFrame_works (s : State) (l : LaneId) (f : Frame) : s.Works (s.passFrame l f) := by
  refine (State.Path.pass (l := l) s f).isLocal.works ?_
  cases ho : (s.lane l).item with
  | none =>
    rw [State.passFrame, ho]
    exact Lane.works_refl _
  | some o =>
    obtain ⟨p, hp⟩ := s.passFrame_takes l f ho
    rw [hp.lane]
    refine ⟨rfl, rfl, rfl, fun q hq => .inl ⟨o, ho, ?_⟩⟩
    rw [← Option.some.inj hq, hp.2.1]

theorem State.passFrames_works (fs : List Frame) (s : State) (l : LaneId) : s.Works (fs.foldl (fun s f => s.passFrame l f) s) := by
  induction fs generalizing s with
  | nil => exact s.works_refl
  | cons f fs ih => exact (s.passFrame_works l f).trans (ih _)

theorem State.requestBuffer_works (s : State) (l : LaneId) : s.Works (s.requestBuffer l) := by
  unfold State.requestBuffer
  split
  · exact s.works_refl
  · split
    · exact s.mapItem_works l _ fun _ => rfl
    · exact State.works_of_lanes rfl

theorem State.grant_works (s : State) : s.Works s.grant := by
  obtain ⟨-, -, -, h⟩ := State.grantLoop_eq s.memory.waiting.length s
  exact fun k => (h k).works

section
variable (s : State) (l : LaneId)

/-- A head opens on a LOCKED port (R26), with no dropout timer running. -/
theorem State.openHead_works (first : FrameCount) (cs : List Frame) (use : InUse) (hk : (s.lane l).port.lock = .locked) :
    s.Works (s.openHead l first cs use) := by
  unfold State.openHead
  dsimp only
  split
  case h_1 q rest _ =>
    generalize ho : OpenItem.begin q use (s.lane l).profile _ = o
    have fresh : o.dropout = none := by rw [← ho]; rfl
    have opened : s.Works (s.setLane l { s.lane l with queue := rest, item := some o }) :=
      s.setLane_works l ⟨rfl, rfl, rfl, fun p hp => .inr ⟨by rw [← Option.some.inj hp, fresh], hk⟩⟩
    have begun := (((opened.trans (State.requestBuffer_works _ l)).trans (State.passFrames_works (prerollOf q cs) _ l)).trans
      (State.mapItem_works _ l (fun o => { o with record := o.record.reckon }) fun _ => rfl)).trans
        (State.raise_works _ (.lane l .itemOpened) q.item)
    split
    · split
      · exact begun.trans (State.closeItem_works _ _ _)
      · exact begun
    · exact begun
  case h_2 => exact s.works_refl

theorem State.openBefore_works (n : Nat) (slot : Slot) (hk : (s.lane l).port.lock = .locked) : s.Works (State.openBefore n s l slot) := by
  induction n generalizing s with
  | zero => exact s.works_refl
  | succ n ih =>
    unfold State.openBefore
    dsimp only
    split
    · have opened := s.openHead_works l (s.lane l).port.counter ((s.lane l).eligibleBefore slot) (s.lane l).inUse hk
      refine opened.trans (ih _ ?_)
      rwa [(opened l).2.1]
    · exact s.works_refl

theorem State.itemFrame_works (rep : FrameReport) : s.Works (s.itemFrame l rep) := by
  have taken := ((s.mapItem_works l OpenItem.takeSpeed fun o => o.takeSpeed_dropout).trans (State.passFrame_works _ l rep.frame)).trans
    (State.mapItem_works _ l (fun o => o.finishFrame rep) fun o => o.finishFrame_dropout rep)
  unfold State.itemFrame
  dsimp only
  split
  · split
    · exact taken.trans (State.closeItem_works _ _ _)
    · exact taken
  · exact taken

theorem State.engineFrame_works (rep : FrameReport) : s.Works (s.engineFrame l rep) := by
  unfold State.engineFrame
  split
  · exact s.works_refl
  · split
    · exact s.itemFrame_works l rep
    · split
      case isTrue h =>
        refine s.openHead_works l _ _ _ ?_
        simp only [State.startsAfter, Bool.and_eq_true, beq_iff_eq] at h
        exact h.1
      case isFalse => exact s.works_refl
    · exact s.works_refl

theorem State.expireDropout_works : s.Works (s.expireDropout l) := by
  unfold State.expireDropout
  split
  · split
    · exact s.closeItem_works l _
    · exact s.works_refl
  · exact s.works_refl

theorem State.expireOverdue_works (ms : Nat) : s.Works (s.expireOverdue l ms) := by
  unfold State.expireOverdue
  split
  · split
    · exact s.expireDropout_works l
    · exact s.works_refl
  · exact s.works_refl

theorem State.cueEdge_works : s.Works (s.cueEdge l) := by
  unfold State.cueEdge
  dsimp only
  split
  · exact s.works_refl
  · split
    · exact s.closeItem_works l _
    · exact s.works_refl
  · split
    case isTrue h =>
      simp only [Bool.and_eq_true, beq_iff_eq] at h
      exact s.openHead_works l _ _ _ h.2
    case isFalse => exact s.works_refl
  · exact s.works_refl
  · exact s.mapItem_works l _ fun o => (o.raiseMark_accounts _).dropout
  · exact s.works_refl

end

/-! ### The lock of a port and the dropout timer -/

/-- From `s` to `t` the lanes but `l` have been worked on by the engine, and of lane `l` the profile, the port and the ring stand. -/
def State.Relocks (l : LaneId) (s t : State) : Prop :=
  (∀ k, k ≠ l → (s.lane k).Works (t.lane k)) ∧
    (t.lane l).profile = (s.lane l).profile ∧ (t.lane l).port = (s.lane l).port ∧ (t.lane l).ring = (s.lane l).ring

theorem State.Works.relocks {l : LaneId} {s t : State} (h : s.Works t) : s.Relocks l t :=
  ⟨fun k _ => h k, (h l).1, (h l).2.1, (h l).2.2.1⟩

theorem State.mapItem_relocks (s : State) (l : LaneId) (f : OpenItem → OpenItem) : s.Relocks l (s.mapItem l f) := by
  refine ⟨fun k hk => ?_, ?_, ?_, ?_⟩
  · rw [State.lane_mapItem_ne s f hk]
    exact Lane.works_refl _
  all_goals rw [State.lane_mapItem]

theorem State.loseLock_relocks (s : State) (l : LaneId) : s.Relocks l (s.loseLock l) := by
  unfold State.loseLock
  split
  · split
    · exact s.works_refl.relocks
    · split
      · exact (s.closeItem_works l _).relocks
      · exact s.mapItem_relocks l _
  · exact s.works_refl.relocks

theorem State.closeItem_item (s : State) (l : LaneId) (r : CloseReason) : ((s.closeItem l r).lane l).item = none := by
  cases ho : (s.lane l).item with
  | none => rwa [State.closeItem, ho]
  | some o => rw [(s.closeItem_itemCloses l r ho).1]

/-- Once lock is lost an item that is still open runs its dropout timer (R41). -/
theorem State.loseLock_dropout (s : State) (l : LaneId) {o : OpenItem} (h : ((s.loseLock l).lane l).item = some o) : o.dropout ≠ none := by
  unfold State.loseLock at h
  split at h
  case h_1 p hp =>
    split at h
    case isTrue hd =>
      rw [← Option.some.inj (hp.symm.trans h)]
      exact Option.isSome_iff_ne_none.mp hd
    case isFalse =>
      split at h
      · exact nomatch (s.closeItem_item l .lockLost).symm.trans h
      · rw [State.lane_mapItem, hp] at h
        rw [← Option.some.inj h]
        exact nofun
  case h_2 hn => exact nomatch hn.symm.trans h

theorem State.regainLock_relocks (s : State) (l : LaneId) (ms : Nat) : s.Relocks l (s.regainLock l ms) := s.mapItem_relocks l _

/-- Once lock is regained no dropout timer runs (R42). -/
theorem State.regainLock_dropout (s : State) (l : LaneId) (ms : Nat) {o : OpenItem} (h : ((s.regainLock l ms).lane l).item = some o) : o.dropout = none := by
  rw [State.regainLock, State.lane_mapItem] at h
  obtain ⟨p, -, e⟩ := Option.map_eq_some_iff.mp h
  rw [← e]
  split
  case h_1 d _ =>
    obtain ⟨r, ref, e, -⟩ := p.relock_eq d.offset ms
    rw [e]
  case h_2 hd => exact hd

end Sys2Proof.Machine

namespace Sys2Proof.Machine

/-! ### Ports, profiles and rings in their ranges -/

/-- The profile, the port and the ring of a lane in their ranges. -/
def Lane.InRange (x : Lane) : Prop := x.profile.Lawful ∧ x.port.Lawful ∧ x.ring.length ≤ x.profile.history

theorem Lane.Works.inRange {x y : Lane} (h : x.Works y) (hx : x.InRange) : y.InRange := by
  obtain ⟨hp, hport, hr, -⟩ := h
  rwa [Lane.InRange, hp, hport, hr]

theorem State.Works.lanesLawful {s t : State} (h : s.Works t) (hs : s.LanesLawful) : t.LanesLawful := fun k => (h k).inRange (hs k)

theorem State.Relocks.lanesLawful {l : LaneId} {s t : State} (h : s.Relocks l t) (hs : s.LanesLawful) : t.LanesLawful := fun k => by
  obtain ⟨others, hp, hport, hr⟩ := h
  by_cases e : k = l
  · subst e
    rw [hp, hport, hr]
    exact hs k
  · exact (others k e).inRange (hs k)

theorem State.LanesLawful.setLane {s : State} (hs : s.LanesLawful) (l : LaneId) {x : Lane} (hx : x.InRange) : (s.setLane l x).LanesLawful := fun k => by
  rw [State.lane_setLane_eq]
  split
  · exact hx
  · exact hs k

theorem State.LanesLawful.congr {s t : State} (hs : s.LanesLawful) (h : t.lanes = s.lanes) : t.LanesLawful := fun k => by
  rw [State.lane_congr h]
  exact hs k

theorem State.LanesLawful.raise {s : State} (hs : s.LanesLawful) (f : Flag) (i : Item) : (s.raise f i).LanesLawful := hs

/-- A port rewritten in its range. -/
theorem State.LanesLawful.port {s : State} (hs : s.LanesLawful) (l : LaneId) {f : Lane → Lane} (hp : (f (s.lane l)).profile = (s.lane l).profile)
    (hport : (f (s.lane l)).port.Lawful) (hr : (f (s.lane l)).ring = (s.lane l).ring) : (s.mapLane l f).LanesLawful :=
  hs.setLane l ⟨by rw [hp]; exact (hs l).1, hport, by rw [hp, hr]; exact (hs l).2.2⟩

theorem sat_le (limit n : Nat) : sat limit n ≤ limit := by
  rw [sat_eq]
  exact Nat.min_le_left ..

theorem lastN_length_le {α : Type} (n : Nat) (xs : List α) : (lastN n xs).length ≤ n := by
  rw [lastN, List.length_drop]
  omega

theorem Assembly.feed_lawful {a : Assembly} (ha : a.Lawful) (aux marker spoils : Bool) : (a.feed aux marker spoils).1.Lawful := by
  unfold Assembly.feed
  dsimp only
  have first (w : BitVec 64) (b : Bool) : (Assembly.collecting 1 w b).Lawful := ⟨by decide, by decide⟩
  split
  · split
    · exact first _ _
    · trivial
  case h_2 count _ _ =>
    obtain ⟨one, -⟩ := ha
    split
    · exact first _ _
    · split
      case isTrue low => exact ⟨Nat.le_add_left .., by omega⟩
      case isFalse => split <;> trivial

theorem LanePort.measure_lawful {p : LanePort} (hp : p.Lawful) (profile : Profile) : (p.measure profile).Lawful := by
  obtain ⟨-, hc, hr, hi, ha, -⟩ := hp
  exact ⟨Nat.zero_le _, hc, hr, hi, ha, nofun⟩

/-- The lock of a port after an arriving edge. -/
theorem Lane.arrive_lock (x : Lane) (slot : Slot) : (x.arrive slot).port.lock = if x.port.lock = .noClock then .measuring else x.port.lock := by
  have lock : (if x.port.lock = .noClock then x.port.measure x.profile else x.port).lock = if x.port.lock = .noClock then .measuring else x.port.lock := by
    split <;> rfl
  rw [← lock]
  unfold Lane.arrive
  dsimp only
  split <;> rfl

/-- A slot is taken by a LOCKED port alone (R80). -/
theorem Lane.arrive_taken (x : Lane) (slot : Slot) : (x.arrive slot).taken = (x.port.lock == .locked) := by
  have lock : ((if x.port.lock = .noClock then x.port.measure x.profile else x.port).lock == .locked) = (x.port.lock == .locked) := by
    split
    case isTrue h => rw [h]; rfl
    case isFalse => rfl
  rw [← lock]
  unfold Lane.arrive
  dsimp only
  split <;> rfl

theorem Lane.arrive_lawful (x : Lane) (hx : x.port.Lawful) (slot : Slot) : (x.arrive slot).port.Lawful := by
  have clocked : (x.arrive slot).port.lock ≠ .noClock := by
    rw [Lane.arrive_lock]
    split
    · nofun
    · assumption
  have begun : (if x.port.lock = .noClock then x.port.measure x.profile else x.port).Lawful := by
    split
    · exact LanePort.measure_lawful hx _
    · exact hx
  unfold Lane.arrive at clocked ⊢
  dsimp only at clocked ⊢
  generalize (if x.port.lock = .noClock then x.port.measure x.profile else x.port) = p at begun clocked ⊢
  obtain ⟨hm, hc, hr, hi, ha, -⟩ := begun
  have countdown : (if p.lock == .locked then p.injection - 1 else p.injection) ≤ 256 := by split <;> omega
  have fed := Assembly.feed_lawful ha (wordAux slot.a) (wordAux slot.b)
    ((failsParity slot.a || (p.lock == .locked && p.injection == 1)) || failsParity slot.b)
  generalize p.assembly.feed _ _ _ = r at fed clocked ⊢
  split at clocked
  · exact ⟨hm, hc, hr, countdown, fed, fun h => absurd h clocked⟩
  · exact ⟨hm, hc, sat_le .., countdown, fed, fun h => absurd h clocked⟩
  · exact ⟨hm, hc, sat_le .., countdown, fed, fun h => absurd h clocked⟩

theorem LanePort.take_lawful {p : LanePort} (hp : p.Lawful) (c : Channels) (f : Frame) : (p.take c f).Lawful := by
  obtain ⟨hm, -, hr, hi, ha, hn⟩ := hp
  exact ⟨hm, sat_le .., hr, hi, ha, hn⟩

theorem Lane.afterTaking_inRange {x : Lane} (hx : x.InRange) (slot : Slot) : (x.afterTaking slot).InRange := by
  obtain ⟨hp, hport, -⟩ := hx
  exact ⟨hp, LanePort.take_lawful (x.arrive_lawful hport slot) _ _, lastN_length_le ..⟩

theorem profile_default_lawful : Profile.default.Lawful := by
  unfold Profile.Lawful
  decide

theorem port_reset_lawful : LanePort.reset.Lawful := ⟨by decide, by decide, by decide, by decide, trivial, fun _ => ⟨rfl, rfl, rfl⟩⟩

theorem Lane.afterReset_inRange (low : Bool) (running : Option Nat) : (Lane.afterReset low running).InRange :=
  ⟨profile_default_lawful, port_reset_lawful, Nat.zero_le _⟩

/-! ### LANE_SET (R92, R94) -/

theorem clamp_mem {low high n : Nat} (h : low ≤ high) : low ≤ clamp low high n ∧ clamp low high n ≤ high := by
  unfold clamp
  omega

theorem fixedGroup_lawful {ps : List Byte} {p q : Profile} (hp : p.Lawful) (h : fixedGroup ps p = some q) : q.Lawful := by
  obtain ⟨-, -, -, hl, hh, hns, hng, hc, hk, hd, hg, hq, hr⟩ := hp
  unfold fixedGroup at h
  split at h
  · rw [Option.ite_none_right_eq_some] at h
    rw [← Option.some.inj h.2]
    exact ⟨clamp_mem (by decide), (clamp_mem (by decide)).2, clamp_mem (by decide), hl, hh, hns, hng, hc, hk, hd, hg, hq, hr⟩
  · exact nomatch h

theorem liveGroup_lawful {ps : List Byte} {p q : Profile} (hp : p.Lawful) (h : liveGroup ps p = some q) : q.Lawful := by
  obtain ⟨hquota, hh, ht, -, -, -, -, -, -, -, -, -, hr⟩ := hp
  unfold liveGroup at h
  split at h
  · rw [← Option.some.inj h]
    exact ⟨hquota, hh, ht, Nat.le_max_left .., Nat.max_le.mpr ⟨(clamp_mem (by decide)).2, (clamp_mem (by decide)).2⟩, clamp_mem (by decide),
      clamp_mem (by decide), clamp_mem (by decide), clamp_mem (by decide), clamp_mem (by decide), (clamp_mem (by decide)).2, clamp_mem (by decide), hr⟩
  · exact nomatch h

theorem selectedGroups_lawful {ps : List Byte} {p q : Profile} (hp : p.Lawful) (h : selectedGroups ps p = some q) : q.Lawful := by
  unfold selectedGroups at h
  split at h
  · exact fixedGroup_lawful hp h
  · exact liveGroup_lawful hp h
  · obtain ⟨r, hr, hq⟩ := Option.bind_eq_some_iff.mp h
    exact liveGroup_lawful (fixedGroup_lawful hp hr) hq
  · exact nomatch h

/-! ### The lane events -/

theorem State.LanesLawful.restartMeasurement {s : State} (hs : s.LanesLawful) (l : LaneId) : (s.restartMeasurement l).LanesLawful := by
  have measured := hs.port l (f := fun x => { x with port := x.port.measure x.profile }) rfl (LanePort.measure_lawful (hs l).2.1 _) rfl
  unfold State.restartMeasurement
  split
  · exact hs
  · exact measured.congr rfl
  · exact measured

theorem State.LanesLawful.takeSlot {s : State} (hs : s.LanesLawful) (l : LaneId) (slot : Slot) : (s.takeSlot l slot).LanesLawful := by
  have taken : (s.setLane l ((s.lane l).afterTaking slot)).LanesLawful := hs.setLane l (Lane.afterTaking_inRange (hs l) slot)
  have delivered (u : State) (hu : u.LanesLawful) : (u.deliverLive l (s.lane l).inUse.channels ((s.lane l).frameTaken slot)).LanesLawful := hu.congr rfl
  unfold State.takeSlot
  dsimp only
  split
  · refine State.LanesLawful.restartMeasurement (delivered _ ?_) l
    split
    · exact taken.congr rfl
    · exact taken
  · refine delivered _ ?_
    split
    · exact taken.congr rfl
    · exact taken

theorem State.LanesLawful.slotArrives {s : State} (hs : s.LanesLawful) (l : LaneId) (slot : Slot) : (s.slotArrives l slot).LanesLawful := by
  unfold State.slotArrives
  dsimp only
  split
  case isTrue taken =>
    have locked : (s.lane l).port.lock = .locked := by
      rwa [Lane.arrive_taken, beq_iff_eq] at taken
    exact (State.engineFrame_works _ _ _).lanesLawful (((State.openBefore_works s l _ slot locked).lanesLawful hs).takeSlot l slot)
  case isFalse =>
    have heard : (s.setLane l { s.lane l with port := ((s.lane l).arrive slot).port }).LanesLawful :=
      hs.setLane l ⟨(hs l).1, Lane.arrive_lawful _ (hs l).2.1 slot, (hs l).2.2⟩
    split
    · exact (State.closeItem_works _ _ _).lanesLawful (heard.restartMeasurement l)
    · exact heard

/-- A port in another state of lock, which has a clock. -/
theorem State.LanesLawful.relocked {s : State} (hs : s.LanesLawful) (l : LaneId) (lk : LockState) (hl : lk ≠ .noClock) :
    (s.mapLane l fun x => { x with port := { x.port with lock := lk } }).LanesLawful := by
  obtain ⟨hm, hc, hr, hi, ha, -⟩ := (hs l).2.1
  exact hs.port l rfl ⟨hm, hc, hr, hi, ha, fun h => absurd h hl⟩ rfl

theorem State.LanesLawful.acquireLock {s : State} (hs : s.LanesLawful) (l : LaneId) (ms : Nat) : (s.acquireLock l ms).LanesLawful := by
  obtain ⟨hm, hc, hr, hi, ha, -⟩ := (hs l).2.1
  unfold State.acquireLock
  refine (State.regainLock_relocks _ l ms).lanesLawful (State.LanesLawful.raise ?_ _ _)
  exact hs.setLane l ⟨(hs l).1, ⟨hm, hc, hr, hi, ha, nofun⟩, Nat.zero_le _⟩

/-- A port with a clock that reports a measured rate (R82). -/
theorem State.LanesLawful.measured {s : State} (hs : s.LanesLawful) (l : LaneId) (hl : (s.lane l).port.lock ≠ .noClock) {m : Nat}
    (hm : m ≤ Config.count32) :
    (s.mapLane l fun x => { x with port := ({ x.port with measured := m } : LanePort).beginWindow x.profile }).LanesLawful := by
  obtain ⟨-, hc, hr, hi, ha, -⟩ := (hs l).2.1
  exact hs.port l rfl ⟨hm, hc, hr, hi, ha, fun h => absurd h hl⟩ rfl

theorem State.LanesLawful.endWindow {s : State} (hs : s.LanesLawful) (l : LaneId) (n t ms : Nat) : (s.endWindow l n t ms).LanesLawful := by
  unfold State.endWindow
  dsimp only
  split
  · exact hs
  case isFalse hclock =>
    have clocked : (s.lane l).port.lock ≠ .noClock := by
      simp only [Bool.or_eq_true, decide_eq_true_eq, not_or] at hclock
      exact hclock.1.1
    have works := s.expireOverdue_works l ms
    have lock : ((s.expireOverdue l ms).lane l).port.lock ≠ .noClock := by rwa [(works l).2.1]
    have measured := (works.lanesLawful hs).measured l lock (sat_le Config.count32 ((2 * 16 * ((n - 1) * 24576000) + t) / (2 * t)))
    split
    · exact measured
    · exact (State.loseLock_relocks _ l).lanesLawful ((measured.relocked l .mismatch nofun).raise _ _)
    · exact measured.acquireLock l ms
    · exact measured.relocked l .mismatch nofun

theorem State.LanesLawful.loseClock {s : State} (hs : s.LanesLawful) (l : LaneId) : (s.loseClock l).LanesLawful := by
  have lost : (s.mapLane l fun x => { x with port :=
      { x.port with lock := .noClock, measured := 0, windowConcealed := 0, assembly := .waiting, motion := .unknown } }).LanesLawful := by
    obtain ⟨-, hc, hr, hi, -, -⟩ := (hs l).2.1
    exact hs.port l rfl ⟨Nat.zero_le _, hc, hr, hi, trivial, fun _ => ⟨rfl, rfl, rfl⟩⟩ rfl
  unfold State.loseClock
  dsimp only
  split
  · exact hs
  · exact (State.loseLock_relocks _ l).lanesLawful (lost.raise _ _)
  · exact lost

theorem State.LanesLawful.endDebounce {s : State} (hs : s.LanesLawful) (l : LaneId) : (s.endDebounce l).LanesLawful := by
  have moved : (s.mapLane l fun x => { x with cue := { x.cue with level := x.cue.low, running := none } }).LanesLawful := hs.port l rfl (hs l).2.1 rfl
  unfold State.endDebounce
  dsimp only
  split
  · split
    · exact (State.cueEdge_works _ l).lanesLawful moved
    · exact moved
  · exact hs

theorem lanesLawful_laneEventsKeep : LaneEventsKeep State.LanesLawful where
  slotArrives _ l slot hs := hs.slotArrives l slot
  endWindow _ l n t ms hs := hs.endWindow l n t ms
  loseClock _ l hs := hs.loseClock l
  expireDropout s l hs := (s.expireDropout_works l).lanesLawful hs
  endDebounce _ l hs := hs.endDebounce l
  cue _ l _ hs := hs.port l rfl (hs l).2.1 rfl

end Sys2Proof.Machine

namespace Sys2Proof.Machine

/-! ### The lane commands -/

theorem State.LanesLawful.applyProfile {s : State} (hs : s.LanesLawful) (l : LaneId) {p : Profile} (hp : p.Lawful) : (s.applyProfile l p).LanesLawful := by
  have written : (s.mapLane l fun x => ({ x with profile := p } : Lane).trimRing).LanesLawful := hs.setLane l ⟨hp, (hs l).2.1, lastN_length_le ..⟩
  unfold State.applyProfile
  dsimp only
  split
  · split
    · exact (State.loseLock_relocks _ l).lanesLawful (written.restartMeasurement l)
    · exact written.restartMeasurement l
  · exact written

theorem Profile.Lawful.withRatio {p : Profile} (hp : p.Lawful) {r : Ratio} (hr : r.valid = true) : ({ p with ratio := r } : Profile).Lawful := by
  obtain ⟨h1, h2, h3, h4, h5, h6, h7, h8, h9, h10, h11, h12, -⟩ := hp
  exact ⟨h1, h2, h3, h4, h5, h6, h7, h8, h9, h10, h11, h12, hr⟩

theorem laneSet_lanesLawful (l : LaneId) (ps : List Byte) (s : State) (hs : s.LanesLawful) : (laneSet l ps s).state.LanesLawful := by
  unfold laneSet
  dsimp only
  split
  · exact hs
  case h_2 p hp =>
    have lawful : p.Lawful := selectedGroups_lawful (hs l).1 hp
    split
    · exact hs
    · split
      · exact hs
      · split
        · exact hs
        case isFalse hratio =>
          refine hs.applyProfile l ?_
          split
          case isTrue enabling =>
            rw [enabling, Bool.true_and, Bool.not_eq_true, Bool.not_eq_eq_eq_not, Bool.not_false] at hratio
            exact lawful.withRatio hratio
          case isFalse => exact lawful

theorem speedSet_lanesLawful (l : LaneId) (ps : List Byte) (s : State) (hs : s.LanesLawful) : (speedSet l ps s).state.LanesLawful := by
  obtain ⟨hp, hport, hr⟩ := hs l
  unfold speedSet
  dsimp only
  split
  · exact hs
  · split
    · exact hs
    case isFalse hratio =>
      have valid : (⟨field ps 1 2, field ps 3 2⟩ : Ratio).valid = true := by simpa using hratio
      split
      · exact hs.setLane l ⟨hp.withRatio valid, hport, hr⟩
      · split
        · exact hs
        · exact hs.setLane l ⟨hp.withRatio valid, hport, hr⟩

theorem inject_lanesLawful (l : LaneId) (ps : List Byte) (s : State) (hs : s.LanesLawful) : (inject l ps s).state.LanesLawful := by
  unfold inject
  dsimp only
  split
  case isTrue h =>
    obtain ⟨hm, hc, hr, -, ha, hn⟩ := (hs l).2.1
    exact hs.port l rfl ⟨hm, hc, hr, h.2, ha, hn⟩ rfl
  · exact hs

theorem laneStatus_lanesLawful (l : LaneId) (ps : List Byte) (s : State) (hs : s.LanesLawful) : (laneStatus l ps s).state.LanesLawful := by
  obtain ⟨hm, -, -, hi, ha, hn⟩ := (hs l).2.1
  exact hs.port l rfl ⟨hm, Nat.zero_le _, Nat.zero_le _, hi, ha, hn⟩ rfl

theorem laneReset_lanesLawful (l : LaneId) (ps : List Byte) (s : State) (hs : s.LanesLawful) : (laneReset l ps s).state.LanesLawful := by
  let u : State := { s with events := { s.events with lanes := s.events.lanes.set l 0 } }
  have closed : (u.closeItem l .laneReset).LanesLawful := (u.closeItem_works l .laneReset).lanesLawful hs
  exact closed.setLane l ⟨(closed l).1, port_reset_lawful, Nat.zero_le _⟩

theorem Lane.armIfWaiting_works {x y : Lane} (hp : y.profile = x.profile) (hport : y.port = x.port) (hr : y.ring = x.ring) (hi : y.item = x.item) :
    x.Works y.armIfWaiting := by
  unfold Lane.armIfWaiting
  split
  · exact Lane.works_of_same hp hport hr hi
  · exact Lane.works_of_same hp hport hr hi

/-- The commands on items leave the profiles, the ports and the rings, and give no item a dropout timer. -/
theorem itemQueue_works (l : LaneId) (ps : List Byte) (s : State) : s.Works (itemQueue l ps s).state := by
  unfold itemQueue
  dsimp only
  split
  · exact s.works_refl
  · split
    · exact s.works_refl
    · split
      · exact s.works_refl
      · split
        · exact s.works_refl
        · split
          · exact s.works_refl
          · refine s.setLane_works l ?_
            split
            · exact Lane.armIfWaiting_works rfl rfl rfl rfl
            · exact Lane.works_of_same rfl rfl rfl rfl

theorem itemWithdraw_works (ps : List Byte) (s : State) : s.Works (itemWithdraw ps s).state := by
  unfold itemWithdraw
  split
  · exact s.works_refl
  case h_2 l _ _ _ =>
    refine s.setLane_works l ?_
    dsimp only
    split
    · exact Lane.armIfWaiting_works rfl rfl rfl rfl
    · exact Lane.works_of_same rfl rfl rfl rfl
  · exact s.works_refl

theorem itemStart_works (ps : List Byte) (s : State) : s.Works (itemStart ps s).state := by
  unfold itemStart
  split
  · exact s.works_refl
  · dsimp only
    split
    · exact s.works_refl
    · split
      · exact s.works_refl
      case isFalse hl => exact s.openHead_works _ _ _ _ (not_not.mp hl)
  · exact s.works_refl

theorem closeByCommand_works (r : CloseReason) (ps : List Byte) (s : State) : s.Works (closeByCommand r ps s).state := by
  unfold closeByCommand
  split
  · exact s.works_refl
  · exact s.closeItem_works _ r
  · exact s.works_refl

theorem itemMark_works (ps : List Byte) (s : State) : s.Works (itemMark ps s).state := by
  unfold itemMark
  dsimp only
  split
  · exact s.works_refl
  · split
    · exact s.works_refl
    case h_2 l o hf =>
      refine s.setLane_works l ⟨rfl, rfl, rfl, fun p hp => .inl ⟨o, (State.find_opened hf).1, ?_⟩⟩
      rw [← Option.some.inj hp, (o.raiseMark_accounts _).dropout]
    · exact s.works_refl

theorem itemRelease_works (ps : List Byte) (s : State) : s.Works (itemRelease ps s).state := by
  unfold itemRelease
  split
  · exact s.works_refl
  · exact State.works_of_lanes rfl
  · exact s.works_refl

theorem lanesLawful_laneCommandsKeep : LaneCommandsKeep State.LanesLawful where
  laneSet := laneSet_lanesLawful
  laneStatus := laneStatus_lanesLawful
  laneReset := laneReset_lanesLawful
  speedSet := speedSet_lanesLawful
  inject := inject_lanesLawful
  itemQueue l ps s hs := (itemQueue_works l ps s).lanesLawful hs
  itemWithdraw ps s hs := (itemWithdraw_works ps s).lanesLawful hs
  itemStart ps s hs := (itemStart_works ps s).lanesLawful hs
  closeByCommand r ps s hs := (closeByCommand_works r ps s).lanesLawful hs
  itemMark ps s hs := (itemMark_works ps s).lanesLawful hs
  itemRelease ps s hs := (itemRelease_works ps s).lanesLawful hs

end Sys2Proof.Machine

namespace Sys2Proof.Machine

theorem State.complete_works (s : State) : s.Works s.complete := by
  unfold State.complete
  split
  · exact s.works_refl
  · dsimp only
    split
    · exact State.works_of_lanes rfl
    · exact State.grant_works _
    · split <;> exact State.works_of_lanes rfl
    · exact State.works_of_lanes rfl

/-- Every command keeps the profiles, the ports and the rings in their ranges. -/
theorem exec_lanesLawful (c : Instr) (s : State) (hs : s.LanesLawful) : Answers State.LanesLawful (exec c s) := by
  have bench (u t : State) (h : u.Bench t) (hu : u.LanesLawful) : t.LanesLawful := hu.congr h.1
  refine exec_keeps ⟨fun u held cause _ k => ?_, fun u _ k => ?_⟩ lanesLawful_laneEventsKeep
    (linkEventsKeep_of_bench bench (fun _ _ hu => hu) fun u hu => u.complete_works.lanesLawful hu) (executes_of_cmd fun _ _ hu => hu)
    lanesLawful_laneCommandsKeep (partCommandsKeep_of_bench bench) c s hs
  · rw [State.lane_resetAll]
    exact Lane.afterReset_inRange _ _
  · rw [State.lane_deviceReset]
    exact Lane.afterReset_inRange _ _

/-! ### The dropout timers -/

/-- The dropout timer of a lane's open item runs exactly while the port is not LOCKED (R23, R41). -/
def Lane.Timed (x : Lane) : Prop := ∀ o, x.item = some o → (o.dropout = none ↔ x.port.lock = .locked)

theorem Lane.timed_of_empty {x : Lane} (h : x.item = none) : x.Timed := fun _ ho => absurd (h.symm.trans ho) nofun

theorem Lane.Works.timed {x y : Lane} (h : x.Works y) (hx : x.Timed) : y.Timed := fun p hp => by
  obtain ⟨-, hport, -, hi⟩ := h
  rw [hport]
  obtain ⟨o, ho, e⟩ | ⟨e, hl⟩ := hi p hp
  · rw [e]
    exact hx o ho
  · exact ⟨fun _ => hl, fun _ => e⟩

theorem Lane.Timed.port {x y : Lane} (hx : x.Timed) (hi : y.item = x.item) (hl : y.port.lock = .locked ↔ x.port.lock = .locked) : y.Timed :=
  fun o ho => (hx o (hi ▸ ho)).trans hl.symm

theorem State.Works.transferLawful {s t : State} (h : s.Works t) (hs : s.TransferLawful) : t.TransferLawful := fun k => (h k).timed (hs k)

theorem State.TransferLawful.congr {s t : State} (hs : s.TransferLawful) (h : t.lanes = s.lanes) : t.TransferLawful := fun k => by
  rw [State.lane_congr h]
  exact hs k

theorem State.TransferLawful.setLane {s : State} (hs : s.TransferLawful) (l : LaneId) {x : Lane} (hx : x.Timed) : (s.setLane l x).TransferLawful := fun k => by
  rw [State.lane_setLane_eq]
  split
  · exact hx
  · exact hs k

/-- The lanes but one are timed as they were, and the one is timed again. -/
def State.TimedBut (l : LaneId) (s : State) : Prop := ∀ k, k ≠ l → (s.lane k).Timed

theorem State.TransferLawful.but {s : State} (hs : s.TransferLawful) (l : LaneId) : s.TimedBut l := fun k _ => hs k

theorem State.TimedBut.setLane {s : State} {l : LaneId} (hs : s.TimedBut l) (x : Lane) : (s.setLane l x).TimedBut l := fun k hk => by
  rw [State.lane_setLane_ne s x hk]
  exact hs k hk

theorem State.TimedBut.relocks {l : LaneId} {s t : State} (hs : s.TimedBut l) (h : s.Relocks l t) (ht : (t.lane l).Timed) : t.TransferLawful := fun k => by
  by_cases e : k = l
  · exact e ▸ ht
  · exact (h.1 k e).timed (hs k e)

/-- A loss of lock leaves the item closed or its dropout timer running. -/
theorem State.TimedBut.loseLock {l : LaneId} {s : State} (hs : s.TimedBut l) (hl : (s.lane l).port.lock ≠ .locked) : (s.loseLock l).TransferLawful := by
  have relocks := s.loseLock_relocks l
  refine hs.relocks relocks fun o ho => ?_
  rw [relocks.2.2.1]
  exact ⟨fun h => absurd h (s.loseLock_dropout l ho), fun h => absurd h hl⟩

/-- A lock acquisition leaves no dropout timer running. -/
theorem State.TimedBut.regainLock {l : LaneId} {s : State} (hs : s.TimedBut l) (hl : (s.lane l).port.lock = .locked) (ms : Nat) :
    (s.regainLock l ms).TransferLawful := by
  have relocks := s.regainLock_relocks l ms
  refine hs.relocks relocks fun o ho => ?_
  rw [relocks.2.2.1]
  exact ⟨fun _ => hl, fun _ => s.regainLock_dropout l ms ho⟩

theorem State.TransferLawful.acquireLock {s : State} (hs : s.TransferLawful) (l : LaneId) (ms : Nat) : (s.acquireLock l ms).TransferLawful := by
  refine State.TimedBut.regainLock ((hs.but l).setLane _) ?_ ms
  rw [State.lane_setLane]
  rfl

/-- The lock of a port after measurement has restarted. -/
theorem State.restartMeasurement_lock (s : State) (l : LaneId) : ((s.restartMeasurement l).lane l).port.lock ≠ .locked := by
  unfold State.restartMeasurement
  split
  case h_1 h =>
    rw [h]
    nofun
  case h_2 =>
    rw [State.lane_raise, State.lane_mapLane]
    nofun
  case h_3 =>
    rw [State.lane_mapLane]
    nofun

theorem State.restartMeasurement_item (s : State) (l : LaneId) : ((s.restartMeasurement l).lane l).item = (s.lane l).item := by
  unfold State.restartMeasurement
  split
  · rfl
  · rw [State.lane_raise, State.lane_mapLane]
  · rw [State.lane_mapLane]

theorem State.TimedBut.restartMeasurement {l : LaneId} {s : State} (hs : s.TimedBut l) : (s.restartMeasurement l).TimedBut l := by
  unfold State.restartMeasurement
  split
  · exact hs
  · exact hs.setLane _
  · exact hs.setLane _

/-- Measurement that restarts in a port that was not LOCKED. -/
theorem State.TransferLawful.restartMeasurement {s : State} (hs : s.TransferLawful) (l : LaneId) (hl : (s.lane l).port.lock ≠ .locked) :
    (s.restartMeasurement l).TransferLawful := fun k => by
  by_cases e : k = l
  · subst e
    exact Lane.Timed.port (hs k) (s.restartMeasurement_item k) ⟨fun h => absurd h (s.restartMeasurement_lock k), fun h => absurd h hl⟩
  · exact (hs.but l).restartMeasurement k e

/-! ### A slot that changes the values in use -/

/-- A frame whose word changes the rate code or channels in use closes the open item of an enabled lane, and where the port has left LOCKED no head opens (R45). -/
theorem State.engineFrame_rateChange (s : State) (l : LaneId) (rep : FrameReport) (hr : rep.rateChange = true)
    (hl : (s.lane l).port.lock ≠ .locked) (hoff : (s.lane l).profile.enabled = false → (s.lane l).item = none) :
    ((s.engineFrame l rep).lane l).item = none := by
  have unlocked : ((s.lane l).port.lock == LockState.locked) = false := by simpa using hl
  unfold State.engineFrame
  split
  case isTrue h => exact hoff (by simpa using h)
  · split
    · unfold State.itemFrame
      dsimp only
      split
      · rw [OpenItem.frameClose, if_pos hr]
        exact State.closeItem_item ..
      case h_2 hn => exact hn
    case h_2 hn _ =>
      rw [State.startsAfter, unlocked, Bool.false_and]
      exact hn
    case h_3 hn _ => exact hn

theorem State.takeSlot_timed {s : State} (hs : s.TransferLawful) (l : LaneId) (slot : Slot) (hl : (s.lane l).port.lock = .locked) :
    (((s.lane l).arrive slot).rateChange = false → (s.takeSlot l slot).TransferLawful) ∧
      (((s.lane l).arrive slot).rateChange = true → (s.takeSlot l slot).TimedBut l ∧ ((s.takeSlot l slot).lane l).port.lock ≠ .locked) := by
  have lock : ((s.lane l).afterTaking slot).port.lock = .locked := by
    refine ((s.lane l).arrive_lock slot).trans ?_
    rw [hl]
    rfl
  have taken : (s.setLane l ((s.lane l).afterTaking slot)).TransferLawful :=
    hs.setLane l (Lane.Timed.port (hs l) rfl ⟨fun _ => hl, fun _ => lock⟩)
  have delivered : (State.deliverLive (if (s.lane l).passesQuality slot then
      (s.setLane l ((s.lane l).afterTaking slot)).raise (.lane l .quality) else s.setLane l ((s.lane l).afterTaking slot)) l
      (s.lane l).inUse.channels ((s.lane l).frameTaken slot)).TransferLawful := by
    split
    · exact taken.congr rfl
    · exact taken.congr rfl
  unfold State.takeSlot
  dsimp only
  refine ⟨fun h => ?_, fun h => ?_⟩
  · rw [if_neg (by simp [h])]
    exact delivered
  · rw [if_pos h]
    exact ⟨(delivered.but l).restartMeasurement, State.restartMeasurement_lock _ l⟩

/-- The lanes stay timed, whatever a slot brings; a lane that is OFF holds no item. -/
theorem State.TransferLawful.slotArrives {s : State} (hs : s.TransferLawful) (hq : s.QueuesLawful) (l : LaneId) (slot : Slot) :
    (s.slotArrives l slot).TransferLawful := by
  unfold State.slotArrives
  dsimp only
  split
  case isTrue taken =>
    have locked : (s.lane l).port.lock = .locked := by
      rwa [Lane.arrive_taken, beq_iff_eq] at taken
    have opened := s.openBefore_works l (s.lane l).queue.length slot locked
    have queues : ((State.openBefore (s.lane l).queue.length s l slot).takeSlot l slot).QueuesLawful :=
      ((s.openBefore_moves _ l slot).trans (State.takeSlot_moves _ l slot)).evolves.queuesLawful hq
    obtain ⟨hsame, hchange⟩ := State.takeSlot_timed (opened.transferLawful hs) l slot ((opened l).2.1 ▸ locked)
    have reported : ((State.openBefore (s.lane l).queue.length s l slot).lane l).arrive slot = (s.lane l).arrive slot := by
      simp only [Lane.arrive, Lane.inUse, (opened l).1, (opened l).2.1]
    rw [reported] at hsame hchange
    have works := State.engineFrame_works ((State.openBefore (s.lane l).queue.length s l slot).takeSlot l slot) l ((s.lane l).reportOf slot)
    cases hr : ((s.lane l).arrive slot).rateChange with
    | false => exact works.transferLawful (hsame hr)
    | true =>
      obtain ⟨but, unlocked⟩ := hchange hr
      exact but.relocks works.relocks (Lane.timed_of_empty (State.engineFrame_rateChange _ l _ hr unlocked fun off => ((queues l).2.2 off).1))
  case isFalse taken =>
    have unlocked : (s.lane l).port.lock ≠ .locked := by
      rwa [Lane.arrive_taken, beq_iff_eq] at taken
    have heard : (s.setLane l { s.lane l with port := ((s.lane l).arrive slot).port }).TransferLawful := by
      refine hs.setLane l (Lane.Timed.port (hs l) rfl ⟨fun h => absurd h ?_, fun h => absurd h unlocked⟩)
      rw [Lane.arrive_lock]
      split
      · nofun
      · exact unlocked
    split
    · refine ((heard.but l).restartMeasurement).relocks (State.closeItem_works _ l _).relocks (Lane.timed_of_empty (State.closeItem_item ..))
    · exact heard

end Sys2Proof.Machine

namespace Sys2Proof.Machine

/-! ### Loss and return of lock -/

theorem State.TransferLawful.raise {s : State} (hs : s.TransferLawful) (f : Flag) (i : Item) : (s.raise f i).TransferLawful := hs

theorem State.TimedBut.raise {l : LaneId} {s : State} (hs : s.TimedBut l) (f : Flag) (i : Item) : (s.raise f i).TimedBut l := hs

/-- A port that leaves LOCKED by a window or by its clock: LOCK_CHANGE, and the loss at the cutting engine. -/
theorem State.TransferLawful.unlocked {s : State} (hs : s.TransferLawful) (l : LaneId) (f : Lane → Lane) (hl : (f (s.lane l)).port.lock ≠ .locked) :
    (((s.mapLane l f).raise (.lane l .lockChange)).loseLock l).TransferLawful := by
  refine State.TimedBut.loseLock (((hs.but l).setLane _).raise _ _) ?_
  rwa [State.lane_raise, State.lane_mapLane]

theorem State.TransferLawful.endWindow {s : State} (hs : s.TransferLawful) (l : LaneId) (n t ms : Nat) : (s.endWindow l n t ms).TransferLawful := by
  unfold State.endWindow
  dsimp only
  split
  · exact hs
  · have works := s.expireOverdue_works l ms
    have before := works.transferLawful hs
    have measured (m : Nat) : ((s.expireOverdue l ms).mapLane l fun x =>
        { x with port := ({ x.port with measured := m } : LanePort).beginWindow x.profile }).TransferLawful :=
      before.setLane l (Lane.Timed.port (before l) rfl Iff.rfl)
    have lock (m : Nat) : (((s.expireOverdue l ms).mapLane l fun x =>
        { x with port := ({ x.port with measured := m } : LanePort).beginWindow x.profile }).lane l).port.lock = (s.lane l).port.lock := by
      rw [State.lane_mapLane, ← (works l).2.1]
      rfl
    split
    · exact measured _
    · exact (measured _).unlocked l _ nofun
    · exact (measured _).acquireLock l ms
    case h_4 notLocked =>
      refine (measured _).setLane l (Lane.Timed.port (measured _ l) rfl ⟨nofun, fun h => ?_⟩)
      rw [lock] at h
      exact (notLocked h).elim

theorem State.TransferLawful.loseClock {s : State} (hs : s.TransferLawful) (l : LaneId) : (s.loseClock l).TransferLawful := by
  unfold State.loseClock
  dsimp only
  split
  · exact hs
  · exact hs.unlocked l _ nofun
  case h_3 notLocked => exact hs.setLane l (Lane.Timed.port (hs l) rfl ⟨nofun, fun h => (notLocked h).elim⟩)

theorem State.TransferLawful.endDebounce {s : State} (hs : s.TransferLawful) (l : LaneId) : (s.endDebounce l).TransferLawful := by
  have moved : (s.mapLane l fun x => { x with cue := { x.cue with level := x.cue.low, running := none } }).TransferLawful :=
    hs.setLane l (Lane.Timed.port (hs l) rfl Iff.rfl)
  unfold State.endDebounce
  dsimp only
  split
  · split
    · exact (State.cueEdge_works _ l).transferLawful moved
    · exact moved
  · exact hs

/-! ### The lane commands -/

theorem State.TransferLawful.applyProfile {s : State} (hs : s.TransferLawful) (l : LaneId) (p : Profile) : (s.applyProfile l p).TransferLawful := by
  have written : (s.mapLane l fun x => ({ x with profile := p } : Lane).trimRing).TransferLawful := hs.setLane l (Lane.Timed.port (hs l) rfl Iff.rfl)
  have lock : ((s.mapLane l fun x => ({ x with profile := p } : Lane).trimRing).lane l).port.lock = (s.lane l).port.lock := by
    rw [State.lane_mapLane]
    rfl
  unfold State.applyProfile
  dsimp only
  split
  · split
    · exact State.TimedBut.loseLock ((written.but l).restartMeasurement) (State.restartMeasurement_lock _ l)
    case isFalse h => exact written.restartMeasurement l (lock ▸ h)
  · exact written

theorem laneSet_transferLawful (l : LaneId) (ps : List Byte) (s : State) (hs : s.TransferLawful) : (laneSet l ps s).state.TransferLawful := by
  unfold laneSet
  dsimp only
  split
  · exact hs
  · split
    · exact hs
    · split
      · exact hs
      · split
        · exact hs
        · exact hs.applyProfile l _

theorem OpenItem.speedSet_dropout {o p : OpenItem} {r : Ratio} (h : o.speedSet r = some p) : p.dropout = o.dropout := by
  unfold OpenItem.speedSet at h
  split at h
  · rw [← Option.some.inj h]
  · split at h
    · rw [← Option.some.inj h]
    · exact nomatch h

theorem speedSet_transferLawful (l : LaneId) (ps : List Byte) (s : State) (hs : s.TransferLawful) : (speedSet l ps s).state.TransferLawful := by
  unfold speedSet
  dsimp only
  split
  · exact hs
  · split
    · exact hs
    · split
      · exact hs.setLane l (Lane.Timed.port (hs l) rfl Iff.rfl)
      case h_2 o ho =>
        split
        · exact hs
        case h_2 p hp =>
          refine hs.setLane l fun q hq => ?_
          rw [← Option.some.inj hq, OpenItem.speedSet_dropout hp]
          exact hs l o ho

theorem inject_transferLawful (l : LaneId) (ps : List Byte) (s : State) (hs : s.TransferLawful) : (inject l ps s).state.TransferLawful := by
  unfold inject
  dsimp only
  split
  · exact hs.setLane l (Lane.Timed.port (hs l) rfl Iff.rfl)
  · exact hs

theorem laneReset_transferLawful (l : LaneId) (ps : List Byte) (s : State) (hs : s.TransferLawful) : (laneReset l ps s).state.TransferLawful := by
  let u : State := { s with events := { s.events with lanes := s.events.lanes.set l 0 } }
  have closed : (u.closeItem l .laneReset).TransferLawful := (u.closeItem_works l .laneReset).transferLawful hs
  exact closed.setLane l (Lane.timed_of_empty rfl)

/-! ### Every command -/

/-- The queues in order and the dropout timers true. -/
def State.QueuedTimed (s : State) : Prop := s.QueuesLawful ∧ s.TransferLawful

theorem State.Evolves.queuedTimed {s t : State} (h : s.Evolves t) (hs : s.QueuedTimed) (ht : t.TransferLawful) : t.QueuedTimed :=
  ⟨h.queuesLawful hs.1, ht⟩

theorem queuedTimed_laneEventsKeep : LaneEventsKeep State.QueuedTimed where
  slotArrives s l slot hs := (s.slotArrives_moves l slot).evolves.queuedTimed hs (hs.2.slotArrives hs.1 l slot)
  endWindow s l n t ms hs := (s.endWindow_moves l n t ms).evolves.queuedTimed hs (hs.2.endWindow l n t ms)
  loseClock s l hs := (s.loseClock_moves l).evolves.queuedTimed hs (hs.2.loseClock l)
  expireDropout s l hs := (s.expireDropout_moves l).evolves.queuedTimed hs ((s.expireDropout_works l).transferLawful hs.2)
  endDebounce s l hs := (s.endDebounce_moves l).evolves.queuedTimed hs (hs.2.endDebounce l)
  cue s l f hs := (s.mapLane_evolves l (fun x => { x with cue := f x }) (Lane.near_of_same rfl rfl rfl).quiet).queuedTimed hs
    (hs.2.setLane l (Lane.Timed.port (hs.2 l) rfl Iff.rfl))

theorem queuedTimed_laneCommandsKeep : LaneCommandsKeep State.QueuedTimed where
  laneSet l ps s hs := (laneSet_evolves l ps s).queuedTimed hs (laneSet_transferLawful l ps s hs.2)
  laneStatus l ps s hs := (laneStatus_evolves l ps s).queuedTimed hs (hs.2.setLane l (Lane.Timed.port (hs.2 l) rfl Iff.rfl))
  laneReset l ps s hs := (laneReset_evolves l ps s).queuedTimed hs (laneReset_transferLawful l ps s hs.2)
  speedSet l ps s hs := (speedSet_evolves l ps s).queuedTimed hs (speedSet_transferLawful l ps s hs.2)
  inject l ps s hs := (inject_evolves l ps s).queuedTimed hs (inject_transferLawful l ps s hs.2)
  itemQueue l ps s hs := (itemQueue_evolves l ps s).queuedTimed hs ((itemQueue_works l ps s).transferLawful hs.2)
  itemWithdraw ps s hs := (itemWithdraw_evolves ps s).queuedTimed hs ((itemWithdraw_works ps s).transferLawful hs.2)
  itemStart ps s hs := (itemStart_evolves ps s).queuedTimed hs ((itemStart_works ps s).transferLawful hs.2)
  closeByCommand r ps s hs := (closeByCommand_evolves r ps s).queuedTimed hs ((closeByCommand_works r ps s).transferLawful hs.2)
  itemMark ps s hs := (itemMark_evolves ps s).queuedTimed hs ((itemMark_works ps s).transferLawful hs.2)
  itemRelease ps s hs := (itemRelease_evolves ps s).queuedTimed hs ((itemRelease_works ps s).transferLawful hs.2)

/-- Every command keeps the dropout timers true, in a part whose queues are in order. -/
theorem exec_queuedTimed (c : Instr) (s : State) (hs : s.QueuedTimed) : Answers State.QueuedTimed (exec c s) := by
  have bench (u t : State) (h : u.Bench t) (hu : u.QueuedTimed) : t.QueuedTimed := h.evolves.queuedTimed hu (hu.2.congr h.1)
  have empty {u : State} (h : ∀ k, (u.lane k).item = none) : u.TransferLawful := fun k => Lane.timed_of_empty (h k)
  refine exec_keeps ⟨fun u held cause hu => ?_, fun u hu => ?_⟩ queuedTimed_laneEventsKeep
    (linkEventsKeep_of_bench bench (fun _ _ hu => hu) fun u hu => u.complete_still.evolves.queuedTimed hu (u.complete_works.transferLawful hu.2))
    (executes_of_cmd fun _ _ hu => hu) queuedTimed_laneCommandsKeep (partCommandsKeep_of_bench bench) c s hs
  · refine (State.Evolves.fresh (u.resetAll_fresh held cause)).queuedTimed hu (empty fun k => ?_)
    rw [State.lane_resetAll]
    rfl
  · refine (State.Evolves.fresh u.deviceReset_fresh).queuedTimed hu (empty fun k => ?_)
    rw [State.lane_deviceReset]
    rfl

end Sys2Proof.Machine

namespace Sys2Proof.Proofs
open Sys2Proof.Machine

/-- Settles O55: every operation that a command is made of keeps the profiles, the ports and the rings in their ranges, and keeps the dropout timers true in
a part whose queues are in order. -/
theorem lanesKept : Obligations.LanesKept := by
  refine ⟨fun s t hs ht => ?_, fun s t hq hs ht => ?_⟩
  · exact step_keeps_of_answers (fun _ _ h => h) exec_lanesLawful s t hs ht
  · exact (step_keeps_of_answers (fun _ _ h => h) exec_queuedTimed s t ⟨hq, hs⟩ ht).2

end Sys2Proof.Proofs

/-! What every step keeps of the block memory: no more than the 192 buffers are held, and the lanes that wait for one record without one (R113, R116, R117). -/

namespace Sys2Proof.Machine

/-! ### The buffers held -/

/-- The lanes that have a current buffer. -/
def State.inHand (s : State) : Nat := ((List.finRange 8).map fun l => (s.lane l).hasBuffer.toNat).sum

/-- The blocks queued or in flight that hold a buffer: a trailer-only entry holds none (R120). -/
def State.inEntries (s : State) : Nat := s.blocksHeld.countP fun b => b.place.isNone

/-- Each block that holds a buffer holds it for one lane. -/
theorem sum_countP_buffered (bs : List Block) : ((List.finRange 8).map fun l => bs.countP fun b => b.buffered l).sum = bs.countP fun b => b.place.isNone := by
  induction bs with
  | nil => simp
  | cons b bs ih =>
    have one : ((List.finRange 8).map fun l => if b.buffered l then 1 else 0).sum = if b.place.isNone then 1 else 0 := by
      rw [← Fin.sum_univ_def]
      cases hp : b.place.isNone with
      | false => simp only [Block.buffered, hp, Bool.false_and, Bool.false_eq_true, if_false, Finset.sum_const_zero]
      | true => simp only [Block.buffered, hp, Bool.true_and, beq_iff_eq, Finset.sum_ite_eq, Finset.mem_univ, if_true]
    simp only [List.countP_cons, List.sum_map_add, ih, one]

theorem State.held_sum (s : State) : ((List.finRange 8).map s.held).sum = s.inHand + s.inEntries := by
  rw [State.inEntries, ← sum_countP_buffered, State.inHand, ← List.sum_map_add]
  rfl

/-- One lane rewritten moves the buffers in hand by its own. -/
theorem State.inHand_setLane (s : State) (l : LaneId) (x : Lane) :
    (s.setLane l x).inHand + (s.lane l).hasBuffer.toNat = s.inHand + x.hasBuffer.toNat := by
  have others : ∀ k ∈ Finset.univ.erase l, ((s.setLane l x).lane k).hasBuffer.toNat = (s.lane k).hasBuffer.toNat := fun k hk => by
    rw [State.lane_setLane_ne s x (Finset.ne_of_mem_erase hk)]
  simp only [State.inHand, ← Fin.sum_univ_def]
  rw [← Finset.add_sum_erase _ _ (Finset.mem_univ l), ← Finset.add_sum_erase _ (fun k => (s.lane k).hasBuffer.toNat) (Finset.mem_univ l),
    Finset.sum_congr rfl others, State.lane_setLane]
  omega

theorem State.buffersLawful_iff {s : State} : s.BuffersLawful ↔ s.inHand + s.inEntries ≤ Config.buffers ∧ s.memory.waiting.Nodup ∧
    ∀ l ∈ s.memory.waiting, (s.lane l).item.isSome ∧ (s.lane l).hasBuffer = false := by
  rw [State.BuffersLawful, State.held_sum]

/-- Nothing of what the block memory counts has moved. -/
theorem State.BuffersLawful.congr {s t : State} (hs : s.BuffersLawful) (hl : t.lanes = s.lanes) (hw : t.memory.waiting = s.memory.waiting)
    (hb : t.blocksHeld = s.blocksHeld) : t.BuffersLawful := by
  have held : t.held = s.held := funext fun k => by rw [State.held, State.held, State.lane_congr hl, hb]
  simpa only [State.BuffersLawful, held, hw, State.lane_congr hl] using hs

/-- A lane rewritten without its buffer or its open slot changing hands. -/
theorem State.BuffersLawful.edit {s : State} (hs : s.BuffersLawful) (l : LaneId) {x : Lane} (hb : x.hasBuffer = (s.lane l).hasBuffer)
    (hi : x.item.isSome = (s.lane l).item.isSome) : (s.setLane l x).BuffersLawful := by
  obtain ⟨hsum, hn, hw⟩ := State.buffersLawful_iff.mp hs
  have hand := s.inHand_setLane l x
  rw [hb] at hand
  refine State.buffersLawful_iff.mpr ⟨(Nat.add_le_add_right (Nat.add_right_cancel hand).le _).trans hsum, hn, fun k hk => ?_⟩
  rw [State.lane_setLane_eq]
  split
  case isTrue e =>
    subst e
    rw [hi, hb]
    exact hw k hk
  case isFalse => exact hw k hk

/-- A free buffer is one that is not held (R113). -/
theorem State.canGrant_free {s : State} {l : LaneId} (h : s.canGrant l = true) : s.inHand + s.inEntries < Config.buffers := by
  rw [State.canGrant, Bool.and_eq_true, decide_eq_true_eq, decide_eq_true_eq, State.freeBuffers, State.held_sum] at h
  omega

/-! ### Buffers that change hands -/

theorem Lane.hasBuffer_toNat_le (x : Lane) : x.hasBuffer.toNat ≤ 1 := Bool.toNat_le _

theorem Lane.hasBuffer_some {x : Lane} {o : OpenItem} (h : x.item = some o) : x.hasBuffer = o.buffer.isSome := by
  rw [Lane.hasBuffer, h]

theorem Lane.hasBuffer_none {x : Lane} (h : x.item = none) : x.hasBuffer = false := by
  rw [Lane.hasBuffer, h]

/-- A lane that does not wait may do what it likes with its open slot, as long as the buffers suffice. -/
theorem State.BuffersLawful.move {s t : State} (hs : s.BuffersLawful) (l : LaneId) {x : Lane} (ht : t.lanes = (s.setLane l x).lanes)
    (hw : t.memory.waiting = s.memory.waiting) (hl : l ∉ s.memory.waiting)
    (room : s.inHand + x.hasBuffer.toNat + t.inEntries ≤ Config.buffers + (s.lane l).hasBuffer.toNat) : t.BuffersLawful := by
  obtain ⟨-, hn, hwait⟩ := State.buffersLawful_iff.mp hs
  have hand := s.inHand_setLane l x
  have same : t.inHand = (s.setLane l x).inHand := by simp only [State.inHand, State.lane_congr ht]
  refine State.buffersLawful_iff.mpr ⟨by omega, hw ▸ hn, fun k hk => ?_⟩
  rw [hw] at hk
  rw [State.lane_congr ht, State.lane_setLane_ne s x (ne_of_mem_of_not_mem hk hl)]
  exact hwait k hk

/-- A lane that has a buffer does not wait for one. -/
theorem State.BuffersLawful.not_waiting {s : State} (hs : s.BuffersLawful) {l : LaneId} (h : (s.lane l).hasBuffer = true) : l ∉ s.memory.waiting := fun hl =>
  absurd (h.symm.trans (hs.2.2 l hl).2) (by decide)

theorem State.BuffersLawful.not_waiting_of_empty {s : State} (hs : s.BuffersLawful) {l : LaneId} (h : (s.lane l).item = none) : l ∉ s.memory.waiting := fun hl => by
  have := (hs.2.2 l hl).1
  rw [h] at this
  exact nomatch this

/-- A lane that joins the waiting-lane list. -/
theorem State.BuffersLawful.wait {s t : State} (hs : s.BuffersLawful) (l : LaneId) (ht : t.lanes = s.lanes) (hb : t.blocksHeld = s.blocksHeld)
    (hw : t.memory.waiting = s.memory.waiting ++ [l]) (hl : l ∉ s.memory.waiting) (hi : (s.lane l).item.isSome) (hbuf : (s.lane l).hasBuffer = false) :
    t.BuffersLawful := by
  obtain ⟨hsum, hn, hwait⟩ := hs
  have held : t.held = s.held := funext fun k => by rw [State.held, State.held, State.lane_congr ht, hb]
  refine ⟨held ▸ hsum, ?_, fun k hk => ?_⟩
  · rw [hw, ← List.concat_eq_append, List.nodup_concat]
    exact ⟨hl, hn⟩
  · rw [State.lane_congr ht]
    rw [hw, List.mem_append, List.mem_singleton] at hk
    obtain hk | rfl := hk
    · exact hwait k hk
    · exact ⟨hi, hbuf⟩

/-- A lane that leaves the waiting-lane list. -/
theorem State.BuffersLawful.stopWaiting {s : State} (hs : s.BuffersLawful) (l : LaneId) : (s.stopWaiting l).BuffersLawful := by
  obtain ⟨hsum, hn, hwait⟩ := hs
  exact ⟨hsum, hn.filter _, fun k hk => hwait k (List.mem_of_mem_filter hk)⟩

theorem State.stopWaiting_waiting (s : State) (l : LaneId) : l ∉ (s.stopWaiting l).memory.waiting := by
  simp [State.stopWaiting]

/-- A free buffer given to a lane that does not wait. -/
theorem State.BuffersLawful.giveBuffer {s : State} (hs : s.BuffersLawful) (l : LaneId) (hl : l ∉ s.memory.waiting)
    (free : s.inHand + s.inEntries < Config.buffers) : (s.giveBuffer l).BuffersLawful := by
  let x : Lane := { s.lane l with item := (s.lane l).item.map fun o => { o with buffer := some ⟨0, 0, []⟩ } }
  refine hs.move (x := x) l rfl rfl hl ?_
  have one := x.hasBuffer_toNat_le
  show s.inHand + x.hasBuffer.toNat + s.inEntries ≤ _
  omega

theorem State.BuffersLawful.requestBuffer {s : State} (hs : s.BuffersLawful) (l : LaneId) (hi : (s.lane l).item.isSome)
    (hb : (s.lane l).hasBuffer = false) : (s.requestBuffer l).BuffersLawful := by
  unfold State.requestBuffer
  split
  · exact hs
  case isFalse hl =>
    have notWaiting : l ∉ s.memory.waiting := by simpa using hl
    split
    case isTrue hg => exact hs.giveBuffer l notWaiting (State.canGrant_free hg)
    case isFalse => exact hs.wait l rfl rfl rfl notWaiting hi hb

theorem State.BuffersLawful.grantLoop (n : Nat) {s : State} (hs : s.BuffersLawful) : (State.grantLoop n s).BuffersLawful := by
  induction n generalizing s with
  | zero => exact hs
  | succ n ih =>
    unfold State.grantLoop
    split
    case h_1 l hfind =>
      refine ih ((hs.stopWaiting l).giveBuffer l (s.stopWaiting_waiting l) ?_)
      exact State.canGrant_free (s := s) (List.find?_some hfind)
    case h_2 => exact hs

theorem State.BuffersLawful.grant {s : State} (hs : s.BuffersLawful) : s.grant.BuffersLawful := hs.grantLoop _

/-! ### The frames of an item -/

theorem State.ItemTakes.blocksHeld {s t : State} {l : LaneId} {f : Frame} {o p : OpenItem} (h : s.ItemTakes t l f o p) : t.tx = s.tx := by
  rw [h.1]
  rfl

theorem State.blocksHeld_append {s t : State} {bs : List Block} (ht : t.tx = s.tx) (hq : t.memory.queue = s.memory.queue ++ bs) :
    t.blocksHeld = s.blocksHeld ++ bs := by
  rw [State.blocksHeld, State.blocksHeld, ht, hq]
  split <;> rfl

theorem State.inEntries_append {s t : State} {bs : List Block} (ht : t.tx = s.tx) (hq : t.memory.queue = s.memory.queue ++ bs) :
    t.inEntries = s.inEntries + bs.countP fun b => b.place.isNone := by
  rw [State.inEntries, State.blocksHeld_append ht hq, List.countP_append]
  rfl

theorem State.BuffersLawful.passFrame {s : State} (hs : s.BuffersLawful) (l : LaneId) (f : Frame) : (s.passFrame l f).BuffersLawful := by
  cases ho : (s.lane l).item with
  | none =>
    rw [State.passFrame, ho]
    exact hs
  | some o =>
    obtain ⟨p, he, -, -, hplaced, hlost, -⟩ := s.passFrame_takes l f ho
    have htx : (s.passFrame l f).tx = s.tx := by rw [he]; rfl
    have hlanes : (s.passFrame l f).lanes = (s.setLane l { s.lane l with item := some p }).lanes := by rw [he]; rfl
    have total := hs.1
    rw [State.held_sum] at total
    cases hp : o.buffer.isSome || (!s.memory.waiting.contains l && s.canGrant l) with
    | true =>
      obtain ⟨hw, -, hgoes, hfull⟩ := hplaced hp
      have room : l ∉ s.memory.waiting ∧ s.inHand + 1 + s.inEntries ≤ Config.buffers + (s.lane l).hasBuffer.toNat := by
        rw [Bool.or_eq_true, Bool.and_eq_true] at hp
        obtain hb | ⟨hl, hg⟩ := hp
        · have has : (s.lane l).hasBuffer = true := (Lane.hasBuffer_some ho).trans hb
          exact ⟨hs.not_waiting has, by rw [has]; show _ ≤ _ + 1; omega⟩
        · exact ⟨by simpa using hl, by have := State.canGrant_free hg; omega⟩
      obtain ⟨hl, room⟩ := room
      refine hs.move l hlanes hw hl ?_
      by_cases hfill : (o.buffer.getD ⟨0, 0, []⟩).frames + 1 < o.blockSize
      · obtain ⟨hbuf, -, hq⟩ := hgoes hfill
        have entries := State.inEntries_append (bs := []) htx (hq.trans (List.append_nil _).symm)
        have hand : ({ s.lane l with item := some p } : Lane).hasBuffer = true := by rw [Lane.hasBuffer_some rfl, hbuf]; rfl
        rw [hand, entries]
        exact room
      · obtain ⟨hbuf, -, hq⟩ := hfull (Nat.le_of_not_lt hfill)
        have entries := State.inEntries_append htx hq
        have hand : ({ s.lane l with item := some p } : Lane).hasBuffer = false := by rw [Lane.hasBuffer_some rfl, hbuf]; rfl
        rw [hand, entries]
        show s.inHand + 0 + (s.inEntries + 1) ≤ _
        omega
    | false =>
      obtain ⟨hbuf, -, -, hq, hw⟩ := hlost hp
      have hnone : (s.lane l).hasBuffer = false := by
        rw [Bool.or_eq_false_iff] at hp
        exact (Lane.hasBuffer_some ho).trans hp.1
      have hand : ({ s.lane l with item := some p } : Lane).hasBuffer = (s.lane l).hasBuffer := by rw [Lane.hasBuffer_some rfl, hbuf, hnone]; rfl
      have edited : (s.setLane l { s.lane l with item := some p }).BuffersLawful := hs.edit l hand (by rw [ho]; rfl)
      have held : (s.passFrame l f).blocksHeld = (s.setLane l { s.lane l with item := some p }).blocksHeld :=
        (State.blocksHeld_append htx (hq.trans (List.append_nil _).symm)).trans (List.append_nil _)
      split at hw
      · exact edited.congr hlanes hw held
      case isFalse hl =>
        refine edited.wait l hlanes held hw (by simpa using hl) ?_ ?_
        · rw [State.lane_setLane]; rfl
        · rw [State.lane_setLane, hand, hnone]

/-! ### The LAST entry of an item -/

/-- After the LAST entry the lane has no buffer and does not wait for one. -/
theorem State.BuffersLawful.lastEntry {s : State} (hs : s.BuffersLawful) (l : LaneId) {o : OpenItem} (ho : (s.lane l).item = some o) (c : OpenItem)
    (hc : c.buffer = o.buffer) (r : CloseReason) : (s.lastEntry l c r).BuffersLawful ∧ l ∉ (s.lastEntry l c r).memory.waiting ∧
      ((s.lastEntry l c r).lane l).hasBuffer = false := by
  have total := hs.1
  rw [State.held_sum] at total
  have bare : ({ s.lane l with item := (s.lane l).item.map OpenItem.emitted } : Lane).hasBuffer = false := by
    rw [Lane.hasBuffer_some (congrArg (Option.map OpenItem.emitted) ho)]
    rfl
  have emptied (b : Block) : (((s.enqueue b).mapItem l OpenItem.emitted).lane l).hasBuffer = false := by
    rw [State.lane_mapItem]
    exact bare
  have entered (b : Block) : ((s.enqueue b).mapItem l OpenItem.emitted).inEntries = s.inEntries + [b].countP fun b => b.place.isNone :=
    State.inEntries_append rfl rfl
  have has := Lane.hasBuffer_some ho
  unfold State.lastEntry
  dsimp only
  rw [hc]
  split
  case h_1 b hb =>
    rw [hb] at has
    have notWaiting : l ∉ s.memory.waiting := hs.not_waiting has
    have moved (e : Block) : ((s.enqueue e).mapItem l OpenItem.emitted).BuffersLawful := by
      refine hs.move (x := { s.lane l with item := (s.lane l).item.map OpenItem.emitted }) l rfl rfl notWaiting ?_
      rw [bare, entered, has]
      have : [e].countP (fun b => b.place.isNone) ≤ 1 := List.countP_le_length
      show s.inHand + 0 + _ ≤ Config.buffers + 1
      omega
    split
    · obtain ⟨-, -, -, granted⟩ := State.grantLoop_eq (((s.enqueue _).mapItem l OpenItem.emitted).memory.waiting.length)
        ((s.enqueue (c.block l ⟨0, c.gap, []⟩ (some (c.trailer r)) (some c.queued.record))).mapItem l OpenItem.emitted)
      refine ⟨(moved _).grant, fun h => notWaiting ((State.grantLoop_waiting _ ((s.enqueue _).mapItem l OpenItem.emitted)).1.subset h), ?_⟩
      obtain e | ⟨-, -, h, -⟩ := granted l
      · exact (congrArg Lane.hasBuffer e).trans (emptied _)
      · exact absurd h notWaiting
    · exact ⟨moved _, notWaiting, emptied _⟩
  case h_2 hb =>
    rw [hb] at has
    have moved (e : Block) (he : e.place ≠ none) : ((s.enqueue e).mapItem l OpenItem.emitted).BuffersLawful := by
      have entry : (s.enqueue e).BuffersLawful := by
        obtain ⟨-, hn, hw⟩ := State.buffersLawful_iff.mp hs
        have entries : (s.enqueue e).inEntries = s.inEntries + [e].countP fun b => b.place.isNone := State.inEntries_append rfl rfl
        refine State.buffersLawful_iff.mpr ⟨?_, hn, hw⟩
        rw [entries]
        have none : [e].countP (fun b => b.place.isNone) = 0 := by simpa [Option.isNone_iff_eq_none] using he
        exact none ▸ total
      exact entry.edit l (bare.trans has.symm) (by simp)
    exact ⟨(moved _ (Option.some_ne_none _)).stopWaiting l, State.stopWaiting_waiting _ l, emptied _⟩

theorem State.BuffersLawful.closeItem {s : State} (hs : s.BuffersLawful) (l : LaneId) (r : CloseReason) : (s.closeItem l r).BuffersLawful := by
  unfold State.closeItem
  split
  case h_1 o ho =>
    dsimp only
    obtain ⟨entered, notWaiting, bare⟩ := hs.lastEntry l ho (o.closing r) rfl r
    generalize s.lastEntry l (o.closing r) r = u at entered notWaiting bare
    have vacated : (((u.mapLane l fun x => x.vacate (o.closing r).lastFrame).file ((o.closing r).filed l r)).raise (.lane l .itemClosed)
        (o.closing r).queued.item).BuffersLawful := by
      have total := entered.1
      rw [State.held_sum] at total
      refine entered.move l rfl rfl notWaiting ?_
      rw [bare]
      exact total
    unfold State.armNext
    split
    · exact vacated
    · exact vacated.edit l rfl rfl
  · exact hs

/-- Every part of a lane event keeps the buffers in order. -/
theorem State.Path.buffersLawful {l : LaneId} {s t : State} (h : State.Path l s t) (hs : s.BuffersLawful) : t.BuffersLawful := by
  induction h with
  | refl => exact hs
  | trans _ _ ih ih' => exact ih' (ih hs)
  | edit s x hb hi => exact hs.edit l hb hi
  | raise => exact hs
  | deliver => exact hs
  | pass s f => exact hs.passFrame l f
  | close s r => exact hs.closeItem l r
  | opens s x o hi hx ho =>
    have notWaiting := hs.not_waiting_of_empty hi
    have bare : x.hasBuffer = false := by rw [Lane.hasBuffer_some hx, ho]; rfl
    have opened : (s.setLane l x).BuffersLawful := by
      have total := hs.1
      rw [State.held_sum] at total
      refine hs.move l rfl rfl notWaiting ?_
      rw [bare]
      exact total.trans (Nat.le_add_right ..)
    refine opened.requestBuffer l ?_ ?_
    · rw [State.lane_setLane, hx]; rfl
    · rw [State.lane_setLane]; exact bare

end Sys2Proof.Machine

namespace Sys2Proof.Machine

/-! ### What leaves the block memory -/

/-- From `s` to `t` no lane has moved, no entry and no packet in flight. -/
def State.Shelved (s t : State) : Prop := t.lanes = s.lanes ∧ t.memory = s.memory ∧ t.tx.inFlight = s.tx.inFlight

theorem State.Shelved.refl (s : State) : s.Shelved s := ⟨rfl, rfl, rfl⟩

theorem State.Shelved.trans {s t u : State} (h : s.Shelved t) (k : t.Shelved u) : s.Shelved u :=
  ⟨k.1.trans h.1, k.2.1.trans h.2.1, k.2.2.trans h.2.2⟩

theorem State.Shelved.after {s t u : State} (k : t.Shelved u) (h : s.Shelved t) : s.Shelved u := h.trans k

theorem State.Shelved.buffersLawful {s t : State} (h : s.Shelved t) (hs : s.BuffersLawful) : t.BuffersLawful := by
  obtain ⟨hl, hm, hf⟩ := h
  exact hs.congr hl (hm ▸ rfl) (by rw [State.blocksHeld, State.blocksHeld, hm, hf])

theorem State.setMonitor_shelved (s : State) (id : MonitorId) (m : Monitor) : s.Shelved (s.setMonitor id m) := by
  cases id <;> exact ⟨rfl, rfl, rfl⟩

theorem State.takeHoldLimit_shelved (s : State) : s.Shelved s.takeHoldLimit := by
  unfold State.takeHoldLimit
  split
  · split
    · exact ⟨rfl, rfl, rfl⟩
    · exact .refl s
  · exact .refl s

theorem State.holdTick_shelved (s : State) : s.Shelved s.holdTick := by
  unfold State.holdTick
  split
  · exact ⟨rfl, rfl, rfl⟩
  · exact .refl s

theorem State.breakPacket_shelved (s : State) : s.Shelved s.breakPacket := by
  unfold State.breakPacket
  split
  · exact ⟨rfl, rfl, rfl⟩
  · exact .refl s

theorem State.receiveCommand_shelved (s : State) (c : Command) : s.Shelved (s.receiveCommand c) := by
  unfold State.receiveCommand
  dsimp only
  split <;> exact ⟨rfl, rfl, rfl⟩

theorem State.alignWord_shelved (s : State) (w : LinkWord) : s.Shelved (s.alignWord w) := by
  unfold State.alignWord
  dsimp only
  split
  · split <;> exact ⟨rfl, rfl, rfl⟩
  · exact ⟨rfl, rfl, rfl⟩

theorem State.outputFrame_shelved (s : State) (id : MonitorId) : s.Shelved (s.outputFrame id) := by
  have shown (m : Monitor) : s.Shelved (s.setMonitor id m) := s.setMonitor_shelved id m
  unfold State.outputFrame
  dsimp only
  split
  · split
    · split
      · exact shown _
      · cases id <;> exact ⟨rfl, rfl, rfl⟩
    · exact shown _
  · split
    · exact shown _
    · exact shown _
  · exact shown _
  · exact shown _

theorem State.finishRoute_shelved (s : State) (r : RouteId) (t : Route) (st : RouteState) (c : Option Cause) : s.Shelved (s.finishRoute r t st c) := by
  unfold State.finishRoute
  dsimp only
  split
  · exact State.Shelved.after (State.setMonitor_shelved _ _ _) ⟨rfl, rfl, rfl⟩
  · exact ⟨rfl, rfl, rfl⟩

theorem State.appendFrames_shelved (s : State) (r : RouteId) (t : Route) (p : RecallPacket) : s.Shelved (s.appendFrames r t p) := by
  unfold State.appendFrames
  split
  · split
    · exact .refl s
    · exact s.setMonitor_shelved ..
  · exact .refl s

theorem State.recall_shelved (s : State) (p : RecallPacket) : s.Shelved (s.recall p) := by
  unfold State.recall
  split
  · exact ⟨rfl, rfl, rfl⟩
  case h_2 r _ =>
    split
    · exact .refl s
    case h_2 t _ =>
      split
      · dsimp only
        generalize t.carry p _ = tc
        have moved : s.Shelved (if tc.2 = .accepted then (s.setRoute r (some tc.1)).appendFrames r tc.1 p else s.setRoute r (some tc.1)) := by
          split
          · exact State.Shelved.after (State.appendFrames_shelved _ _ _ _) ⟨rfl, rfl, rfl⟩
          · exact ⟨rfl, rfl, rfl⟩
        split
        · exact moved.trans (State.finishRoute_shelved ..)
        · exact moved
      · exact ⟨rfl, rfl, rfl⟩

theorem State.idleOut_shelved (s : State) (r : RouteId) : s.Shelved (s.idleOut r) := by
  unfold State.idleOut
  split
  · split
    · exact s.finishRoute_shelved ..
    · exact .refl s
  · exact .refl s

theorem State.receivePacket_shelved (s : State) (bytes : List Byte) : s.Shelved (s.receivePacket bytes) := by
  unfold State.receivePacket
  dsimp only
  split
  · exact ⟨rfl, rfl, rfl⟩
  · split
    · split
      · split
        · exact s.receiveCommand_shelved _
        · exact ⟨rfl, rfl, rfl⟩
      · split
        · split
          · exact State.Shelved.after (State.recall_shelved _ _) ⟨rfl, rfl, rfl⟩
          · exact ⟨rfl, rfl, rfl⟩
        · split
          · split <;> exact ⟨rfl, rfl, rfl⟩
          · exact ⟨rfl, rfl, rfl⟩
    · exact ⟨rfl, rfl, rfl⟩

theorem partCommandsKeep_of_shelved {P : State → Prop} (h : ∀ s t, State.Shelved s t → P s → P t) : PartCommandsKeep P where
  deviceResetCommand _ s hs := h s _ ⟨rfl, rfl, rfl⟩ hs
  linkStats _ s hs := h s _ ⟨rfl, rfl, rfl⟩ hs
  eventRead ps s hs := by
    unfold eventRead
    split
    · exact h s _ ⟨rfl, rfl, rfl⟩ hs
    · exact hs
  eventMask ps s hs := by
    unfold eventMask
    dsimp only
    split
    · exact h s _ (State.Shelved.after (State.takeHoldLimit_shelved _) ⟨rfl, rfl, rfl⟩) hs
    · exact hs
  eventForce ps s hs := by
    unfold eventForce
    split
    · rw [State.raiseAll_eq]
      exact h s _ ⟨rfl, rfl, rfl⟩ hs
    · exact hs
  routeSet ps s hs := by
    unfold routeSet
    split
    · exact hs
    · split
      · exact hs
      · split
        · exact hs
        · split
          · exact hs
          · exact h s _ ⟨rfl, rfl, rfl⟩ hs
  routeClear ps s hs := by
    unfold routeClear
    split
    · exact hs
    case h_2 r _ =>
      split
      · exact hs
      case h_2 t _ =>
        refine h s _ ?_ hs
        unfold State.flushFor
        dsimp only
        split
        · exact (s.setMonitor_shelved ..).trans ⟨rfl, rfl, rfl⟩
        · exact ⟨rfl, rfl, rfl⟩
  monitorSelect ps s hs := by
    unfold monitorSelect
    split
    · exact h s _ (s.setMonitor_shelved ..) hs
    · split
      · exact h s _ (s.setMonitor_shelved ..) hs
      · exact hs
    · exact h s _ (s.setMonitor_shelved ..) hs
    · exact hs
  monitorStatus ps s hs := by
    unfold monitorStatus
    split
    · exact hs
    · exact h s _ (s.setMonitor_shelved ..) hs

/-! ### The link and its transmitter -/

/-- A packet in flight that is cut off goes back to the send queue, with its buffer (R128). -/
theorem State.cutOff_blocksHeld (s : State) : s.cutOff.blocksHeld = s.blocksHeld := rfl

theorem State.BuffersLawful.leaveUp {s : State} (hs : s.BuffersLawful) : s.leaveUp.BuffersLawful := by
  have cut : s.cutOff.BuffersLawful := hs.congr rfl rfl s.cutOff_blocksHeld
  exact State.Shelved.buffersLawful (s.cutOff.breakPacket_shelved.trans ⟨rfl, rfl, rfl⟩) cut

theorem State.BuffersLawful.receiveWord {s : State} (hs : s.BuffersLawful) (w : LinkWord) : (s.receiveWord w).BuffersLawful := by
  unfold State.receiveWord
  split
  · unfold State.upWord
    split
    · dsimp only
      have broken : s.breakPacket.BuffersLawful := s.breakPacket_shelved.buffersLawful hs
      split
      · exact State.BuffersLawful.leaveUp (s := { s.breakPacket with rx := _ }) broken
      · exact broken
    · exact (State.Shelved.after (State.breakPacket_shelved _) ⟨rfl, rfl, rfl⟩).buffersLawful hs
    · exact State.Shelved.buffersLawful (s := State.breakPacket { s with rx := { s.rx with run := 0 } }) ⟨rfl, rfl, rfl⟩
        ((State.breakPacket_shelved { s with rx := { s.rx with run := 0 } }).buffersLawful hs)
    · exact hs
    · split
      · exact (State.receivePacket_shelved _ _).buffersLawful (s := { s with rx := { s.rx with run := 0, packet := none } }) hs
      · exact hs
  · exact (s.alignWord_shelved w).buffersLawful hs
  · split
    · exact (State.alignWord_shelved { s with rx := { s.rx with state := .aligning, align := 0 } } w).buffersLawful hs
    · exact hs

theorem State.BuffersLawful.signalLost {s : State} (hs : s.BuffersLawful) : s.signalLost.BuffersLawful := by
  unfold State.signalLost
  dsimp only
  split
  · exact State.BuffersLawful.leaveUp (s := { s with rx := { s.rx with signal := false } }) hs
  · exact hs
  · exact hs

theorem State.BuffersLawful.signalAppears {s : State} (hs : s.BuffersLawful) : s.signalAppears.BuffersLawful := by
  unfold State.signalAppears
  split <;> exact hs

theorem State.blocksHeld_free {s : State} (h : s.tx.inFlight = none) : s.blocksHeld = s.memory.queue := by
  rw [State.blocksHeld, h]

/-- A block that begins to be sent keeps its buffer (R113). -/
theorem State.BuffersLawful.transmit {s : State} (hs : s.BuffersLawful) : s.transmit.BuffersLawful := by
  unfold State.transmit
  dsimp only
  split
  · exact hs
  case isFalse hfree =>
    have free : s.blocksHeld = s.memory.queue := by
      refine State.blocksHeld_free ?_
      rw [Bool.or_eq_true, not_or, Option.not_isSome_iff_eq_none] at hfree
      exact hfree.2
    split
    · exact hs.congr rfl rfl free.symm
    · split
      · exact hs.congr rfl rfl free.symm
      · split
        · exact hs.congr rfl rfl free.symm
        · split
          case h_1 h => exact hs.congr rfl rfl (h.symm.trans free.symm)
          · exact hs

/-- A packet that is complete gives up its buffer, if it has one (R128). -/
theorem State.BuffersLawful.sent {s : State} (hs : s.BuffersLawful) {t : State} (hl : t.lanes = s.lanes) (hm : t.memory = s.memory)
    (hf : t.tx.inFlight = none) : t.BuffersLawful := by
  obtain ⟨hsum, hn, hw⟩ := State.buffersLawful_iff.mp hs
  have hand : t.inHand = s.inHand := by simp only [State.inHand, State.lane_congr hl]
  have fewer : t.inEntries ≤ s.inEntries := by
    rw [State.inEntries, State.blocksHeld_free hf, hm, State.inEntries, State.blocksHeld]
    split
    · exact (List.sublist_cons_self _ _).countP_le
    · exact le_rfl
  refine State.buffersLawful_iff.mpr ⟨by omega, hm ▸ hn, fun k hk => ?_⟩
  rw [State.lane_congr hl]
  exact hw k (hm ▸ hk)

theorem State.BuffersLawful.complete {s : State} (hs : s.BuffersLawful) : s.complete.BuffersLawful := by
  unfold State.complete
  split
  · exact hs
  · dsimp only
    split
    · exact hs.sent rfl rfl rfl
    · exact State.BuffersLawful.grant (hs.sent rfl rfl rfl)
    · split <;> exact hs.sent rfl rfl rfl
    · exact hs.sent rfl rfl rfl

theorem buffersLawful_linkEventsKeep : LinkEventsKeep State.BuffersLawful where
  signal _ _ _ hs := hs
  signalAppears _ hs := hs.signalAppears
  signalLost _ hs := hs.signalLost
  receiveWord _ w hs := hs.receiveWord w
  dropPacket _ hs := hs
  receiveCommand s c hs := (s.receiveCommand_shelved c).buffersLawful hs
  receiveRecall s p _ hs := (State.recall_shelved (s.count _) p).buffersLawful hs
  receiveGate _ _ hs := hs
  countMalformed _ hs := hs
  idleOut s r hs := (s.idleOut_shelved r).buffersLawful hs
  takeHoldLimit s hs := s.takeHoldLimit_shelved.buffersLawful hs
  holdTick s hs := s.holdTick_shelved.buffersLawful hs
  transmit _ hs := hs.transmit
  complete _ hs := hs.complete
  outputFrame s id hs := (s.outputFrame_shelved id).buffersLawful hs

/-! ### The lanes -/

theorem buffersLawful_laneEventsKeep : LaneEventsKeep State.BuffersLawful where
  slotArrives s l slot hs := (s.path_slotArrives l slot).buffersLawful hs
  endWindow s l n t ms hs := (s.path_endWindow l n t ms).buffersLawful hs
  loseClock s l hs := (s.path_loseClock l).buffersLawful hs
  expireDropout s l hs := (s.path_expireDropout l).buffersLawful hs
  endDebounce s l hs := (s.path_endDebounce l).buffersLawful hs
  cue s l f hs := (s.path_mapLane l (fun x => { x with cue := f x }) rfl).buffersLawful hs

theorem Lane.armIfWaiting_item (x : Lane) : x.armIfWaiting.item = x.item := by
  unfold Lane.armIfWaiting
  split <;> rfl

theorem buffersLawful_laneCommandsKeep : LaneCommandsKeep State.BuffersLawful where
  laneSet l ps s hs := (laneSet_path l ps s).buffersLawful hs
  laneStatus l ps s hs := (laneStatus_path l ps s).buffersLawful hs
  laneReset l ps s hs := by
    let u : State := { s with events := { s.events with lanes := s.events.lanes.set l 0 } }
    have closed : (u.closeItem l .laneReset).BuffersLawful := State.BuffersLawful.closeItem (s := u) hs l .laneReset
    have empty := u.closeItem_item l .laneReset
    exact closed.edit l (Lane.hasBuffer_none empty).symm (by rw [empty]; rfl)
  speedSet l ps s hs := (speedSet_path l ps s).buffersLawful hs
  inject l ps s hs := (inject_path l ps s).buffersLawful hs
  itemQueue l ps s hs := by
    unfold itemQueue
    dsimp only
    split
    · exact hs
    · split
      · exact hs
      · split
        · exact hs
        · split
          · exact hs
          case h_2 record _ =>
            split
            · exact hs
            · refine State.BuffersLawful.edit (s := { s with table := { s.table with pool := s.table.pool.erase record } }) hs l ?_ ?_
              · refine Lane.hasBuffer_of_item ?_
                split
                · exact Lane.armIfWaiting_item _
                · rfl
              · split
                · exact congrArg Option.isSome (Lane.armIfWaiting_item _)
                · rfl
  itemWithdraw ps s hs := by
    unfold itemWithdraw
    split
    · exact hs
    case h_2 l _ q _ =>
      refine State.BuffersLawful.edit (s := { s with table := { s.table with pool := s.table.pool ++ [q.record] } }) hs l ?_ ?_
      · refine Lane.hasBuffer_of_item ?_
        dsimp only
        split
        · exact Lane.armIfWaiting_item _
        · rfl
      · dsimp only
        split
        · exact congrArg Option.isSome (Lane.armIfWaiting_item _)
        · rfl
    · exact hs
  itemStart ps s hs := by
    obtain e | ⟨l, -, -, -, hp⟩ := itemStart_path ps s
    · exact e.symm ▸ hs
    · exact hp.buffersLawful hs
  closeByCommand r ps s hs := by
    obtain e | ⟨l, -, -, hp⟩ := closeByCommand_path r ps s
    · exact e.symm ▸ hs
    · exact hp.buffersLawful hs
  itemMark ps s hs := by
    obtain e | ⟨l, hp⟩ := itemMark_path ps s
    · exact e.symm ▸ hs
    · exact hp.buffersLawful hs
  itemRelease ps s hs := by
    unfold itemRelease
    split <;> exact hs

/-- A part whose lanes are reset and whose block memory is empty. -/
theorem buffersLawful_reset {s : State} (hl : ∀ k, (s.lane k).item = none) (hm : s.memory = ⟨[], []⟩) (hf : s.tx.inFlight = none) : s.BuffersLawful := by
  have hand : s.inHand = 0 := by
    simp only [State.inHand, Lane.hasBuffer_none (hl _), Bool.toNat_false, List.map_const', List.sum_replicate, smul_zero]
  have entries : s.inEntries = 0 := by rw [State.inEntries, State.blocksHeld_free hf, hm]; rfl
  refine State.buffersLawful_iff.mpr ⟨?_, ?_, ?_⟩
  · rw [hand, entries]
    exact Nat.zero_le _
  · rw [hm]
    exact List.nodup_nil
  · rw [hm]
    exact fun k hk => absurd hk List.not_mem_nil

/-- Every command keeps the block memory in order. -/
theorem exec_buffersLawful (c : Instr) (s : State) (hs : s.BuffersLawful) : Answers State.BuffersLawful (exec c s) := by
  refine exec_keeps ⟨fun u held cause _ => buffersLawful_reset (fun k => ?_) rfl rfl, fun u _ => buffersLawful_reset (fun k => ?_) rfl rfl⟩
    buffersLawful_laneEventsKeep buffersLawful_linkEventsKeep (executes_of_cmd fun _ _ hu => hu) buffersLawful_laneCommandsKeep
    (partCommandsKeep_of_shelved fun _ _ h hu => h.buffersLawful hu) c s hs
  · rw [State.lane_resetAll]
    rfl
  · rw [State.lane_deviceReset]
    rfl

end Sys2Proof.Machine

namespace Sys2Proof.Proofs
open Sys2Proof.Machine

/-- Settles O56: every operation that a command is made of keeps the buffers held within the 192, and the waiting-lane list in order. -/
theorem buffersKept : Obligations.BuffersKept := step_keeps_of_answers (fun _ _ h => h) exec_buffersLawful

end Sys2Proof.Proofs

/-! The block's queue of commands and the resets of the part (R21, R126, R157, R160, R171, R172). -/

namespace Sys2Proof.Machine

/-! ### While RESET is low -/

theorem running_of_low {s : State} (h : s.resetLow = true) (f : State → State) : running s f = .next s := by
  rw [running, if_pos h]

/-! ### The lanes after a reset -/

theorem Lane.afterReset_atReset (low : Bool) (running : Option Nat) : (Lane.afterReset low running).AtReset Profile.default :=
  ⟨rfl, rfl, rfl, rfl, rfl, rfl, rfl, rfl, rfl⟩

theorem reset_isSet (cause : ResetCause) (f : Flag) : (EventUnit.reset cause).isSet f = false := by
  cases f with
  | lane l e => simp [EventUnit.isSet, EventUnit.reset]
  | device e => simp [EventUnit.isSet, EventUnit.reset]
  | routeDone r => simp [EventUnit.isSet, EventUnit.reset]

theorem isSet_of_same {e d : EventUnit} (hl : d.lanes = e.lanes) (hd : d.device = e.device) (hr : d.routes = e.routes) (f : Flag) :
    d.isSet f = e.isSet f := by
  cases f <;> simp only [EventUnit.isSet, hl, hd, hr]

/-- The units of the part after a reset of the whole part. -/
theorem State.resetAll_unitsReset (s : State) (held : Bool) (cause : ResetCause) : (s.resetAll held cause).UnitsReset := by
  refine ⟨rfl, rfl, fun l => ?_, State.reset_route, rfl, rfl, rfl, rfl⟩
  rw [State.lane_resetAll]
  exact Lane.afterReset_atReset _ _

theorem State.deviceReset_unitsReset (s : State) : s.deviceReset.UnitsReset := by
  refine ⟨rfl, rfl, fun l => ?_, State.reset_route, rfl, rfl, rfl, rfl⟩
  rw [State.lane_deviceReset]
  exact Lane.afterReset_atReset _ _

/-! ### A DEVICE_RESET that is due -/

theorem State.takeReset_of_due {s : State} (h : s.cmd.reset = .due) : s.takeReset = s.deviceReset := if_pos h

theorem State.deviceReset_takeReset (s : State) : s.deviceReset.takeReset = s.deviceReset := if_neg nofun

/-- What is due at once comes before any other event, and once: it leaves nothing due (log 6). -/
theorem State.settle_of_due {s : State} (h : s.cmd.reset = .due) : s.settle = s.deviceReset.settle := by
  rw [State.settle, State.settle, State.takeReset_of_due h, State.deviceReset_takeReset]

/-- A reset of the whole part does not see whether the units have been reset before it. -/
theorem State.deviceReset_resetAll (s : State) (held : Bool) (cause : ResetCause) : s.deviceReset.resetAll held cause = s.resetAll held cause := by
  have lanes : s.deviceReset.resetLanes held = s.resetLanes held := by
    refine Vector.ext fun i hi => ?_
    have low (k : LaneId) : (s.deviceReset.lane k).cue.low = (s.lane k).cue.low := by
      rw [State.lane_deviceReset]
      rfl
    exact (s.deviceReset.getElem_resetLanes held ⟨i, hi⟩).trans (by rw [low, ← State.getElem_resetLanes]; rfl)
  unfold State.resetAll
  rw [lanes]
  rfl

/-- The commands that are no inputs of a unit held in reset and no resets. -/
def RunsAwake : Instr → Prop
  | .powerOn | .resetLineAssert | .resetLineRelease | .deviceResetEffect | .cueLineChange _ _ | .linkSignalAppear | .linkSignalLost => False
  | _ => True

/-- Every other command has its effect only in a unit that is not held in reset, after what is due at once. -/
theorem exec_running {c : Instr} (h : RunsAwake c) : ∃ f, ∀ s, exec c s = running s f := by
  cases c with
  | powerOn => exact h.elim
  | resetLineAssert => exact h.elim
  | resetLineRelease => exact h.elim
  | deviceResetEffect => exact h.elim
  | cueLineChange l low => exact h.elim
  | linkSignalAppear => exact h.elim
  | linkSignalLost => exact h.elim
  | probe | deviceReset | linkStats | eventRead | eventMask | eventForce => exact ⟨_, fun s => by simp only [exec, execProbe, execDeviceReset, execLinkStats, execEventRead, execEventMask, execEventForce, command]; rfl⟩
  | laneSet | laneGet | laneStatus | laneReset | speedSet | inject => exact ⟨_, fun s => by simp only [exec, execLaneSet, execLaneGet, execLaneStatus, execLaneReset, execSpeedSet, execInject, command]; rfl⟩
  | itemQueue | itemWithdraw | itemStart | itemEnd | itemAbandon | itemMark | itemRead | itemRelease | tableStatus => exact ⟨_, fun s => by simp only [exec, execItemQueue, execItemWithdraw, execItemStart, execItemEnd, execItemAbandon, execItemMark, execItemRead, execItemRelease, execTableStatus, command]; rfl⟩
  | routeSet | routeClear | routeRead | monitorSelect | monitorStatus => exact ⟨_, fun s => by simp only [exec, execRouteSet, execRouteClear, execRouteRead, execMonitorSelect, execMonitorStatus, command]; rfl⟩
  | unknownCommandCode => exact ⟨_, fun s => by simp only [exec, execUnknownCommandCode]; rfl⟩
  | arrivingFrame | injectionCountdownEnd | detectorWindowEnd | rateWindowEnd => exact ⟨_, fun s => by simp only [exec, execArrivingFrame, execInjectionCountdownEnd, execDetectorWindowEnd, execRateWindowEnd]; rfl⟩
  | clockLoss | dropoutExpiry | cueDebounceEnd => exact ⟨_, fun s => by simp only [exec, execClockLoss, execDropoutExpiry, execCueDebounceEnd]; rfl⟩
  | linkWord | commandPacket | recallPacket | routeIdleTimeout | gatePacket | malformedPacket => exact ⟨_, fun s => by simp only [exec, execLinkWord, execCommandPacket, execRecallPacket, execRouteIdleTimeout, execGatePacket, execMalformedPacket]; rfl⟩
  | holdLimitReached | transmitStart | packetSent | monitorOutputFrame | holdMillisecond => exact ⟨_, fun s => by simp only [exec, execHoldLimitReached, execTransmitStart, execPacketSent, execMonitorOutputFrame, execHoldMillisecond]; rfl⟩

/-- What is due at once comes before an event: states that settle alike have the same events before them. -/
theorem exec_of_settle {s t : State} (hs : s.resetLow = false) (ht : t.resetLow = false) (h : s.settle = t.settle) (c : Instr)
    (hp : c ≠ .powerOn) (ha : c ≠ .resetLineAssert) (hr : c ≠ .resetLineRelease) (hd : c ≠ .deviceResetEffect) : exec c s = exec c t := by
  have run (runs : RunsAwake c) : exec c s = exec c t := by
    obtain ⟨f, hf⟩ := exec_running runs
    rw [hf, hf, running, running, if_neg (by simp [hs]), if_neg (by simp [ht]), h]
  have either {a a' : State} (f : State → State) : (.next (if s.resetLow then a else f s.settle) : Host.Outcome State Fault Refusal) =
      .next (if t.resetLow then a' else f t.settle) := by
    rw [if_neg (by simp [hs]), if_neg (by simp [ht]), h]
  cases c with
  | powerOn => exact absurd rfl hp
  | resetLineAssert => exact absurd rfl ha
  | resetLineRelease => exact absurd rfl hr
  | deviceResetEffect => exact absurd rfl hd
  | cueLineChange l low => exact either fun s => s.mapLane l fun x => { x with cue := x.cue.sample low x.profile.debounce }
  | linkSignalAppear => exact either State.signalAppears
  | linkSignalLost => exact either State.signalLost
  | _ => exact run trivial

/-- A DEVICE_RESET that is due comes before any event but the RESET line's. -/
theorem exec_of_due {s : State} (hl : s.resetLow = false) (h : s.cmd.reset = .due) (c : Instr) (ha : c ≠ .resetLineAssert)
    (hr : c ≠ .resetLineRelease) : exec c s = exec c s.deviceReset := by
  have low : s.deviceReset.resetLow = false := hl
  by_cases hp : c = .powerOn
  · subst hp
    exact congrArg Host.Outcome.next (s.deviceReset_resetAll s.resetLow .powerOn).symm
  · by_cases hd : c = .deviceResetEffect
    · subst hd
      refine congrArg Host.Outcome.next ?_
      rw [if_neg (by simp [hl]), if_neg (by simp [low]), State.takeReset_of_due h, State.deviceReset_takeReset]
    · exact exec_of_settle hl low (State.settle_of_due h) c hp ha hr hd

end Sys2Proof.Machine

namespace Sys2Proof.Proofs
open Sys2Proof.Machine

/-- Settles O1: the two arms of `step`. -/
theorem stepRunsFront : Obligations.StepRunsFront := by
  refine ⟨fun c rest s h => ?_, fun s h => ?_⟩
  · rw [step, h]
  · rw [step, h]

/-- Settles O3: the reset lane is the same for all 8 lanes, the reset port for both. -/
theorem resetState : Obligations.ResetState := by
  have lane (l : LaneId) : State.reset.lane l = Lane.afterReset false none := by simp [State.lane, State.reset]
  refine ⟨rfl, rfl, rfl, fun l => ?_, State.reset_route, fun id => ?_, rfl, rfl, rfl, rfl, rfl, rfl, rfl, rfl, rfl, rfl, rfl, rfl,
    reset_isSet .powerOn⟩
  · rw [lane]
    exact ⟨rfl, rfl, rfl, rfl, rfl, rfl, rfl, rfl, rfl, rfl, rfl, rfl, rfl, rfl, rfl, rfl, rfl, rfl, rfl, rfl, rfl, rfl, rfl, rfl, rfl⟩
  · cases id
    · exact ⟨rfl, rfl, rfl, rfl, rfl, rfl, rfl⟩
    · exact ⟨rfl, rfl, rfl, rfl, rfl, rfl, rfl⟩

/-- Settles O4: a unit held in reset meets no event; only the levels of its inputs move. -/
theorem resetLineHolds : Obligations.ResetLineHolds := by
  intro s hl
  refine ⟨fun c hp ha hr hc happ hlost => ?_, fun l low => ?_, ?_, ?_⟩
  · have run (runs : RunsAwake c) : exec c s = .next s := by
      obtain ⟨f, hf⟩ := exec_running runs
      rw [hf, running_of_low hl]
    cases c with
    | powerOn => exact absurd rfl hp
    | resetLineAssert => exact absurd rfl ha
    | resetLineRelease => exact absurd rfl hr
    | cueLineChange l low => exact absurd rfl (hc l low)
    | linkSignalAppear => exact absurd rfl happ
    | linkSignalLost => exact absurd rfl hlost
    | deviceResetEffect => exact congrArg Host.Outcome.next (if_pos hl)
    | _ => exact run trivial
  · exact congrArg Host.Outcome.next (if_pos hl)
  · exact congrArg Host.Outcome.next (if_pos hl)
  · exact congrArg Host.Outcome.next (if_pos hl)

/-- Settles O5: each is a reset of the whole part, with its cause, held or not. -/
theorem wholeResets : Obligations.WholeResets := by
  intro s
  dsimp only
  have cues (held : Bool) (cause : ResetCause) (l : LaneId) : ((s.resetAll held cause).lane l).cue.low = (s.lane l).cue.low ∧
      ((s.resetAll held cause).lane l).cue.running = if (s.lane l).cue.low = true ∧ held = false then some 20 else none := by
    rw [State.lane_resetAll]
    refine ⟨rfl, ?_⟩
    cases (s.lane l).cue.low <;> cases held <;> rfl
  refine ⟨⟨_, rfl, ?_⟩, ⟨_, rfl, ?_⟩, fun hl => ⟨_, congrArg Host.Outcome.next (if_pos hl), ?_⟩, fun hl => ?_⟩
  · exact ⟨s.resetAll_unitsReset _ _, rfl, rfl, rfl, rfl, rfl, rfl, reset_isSet _, rfl, rfl, rfl, rfl, cues _ _⟩
  · exact ⟨s.resetAll_unitsReset _ _, rfl, rfl, rfl, rfl, rfl, rfl, reset_isSet _, rfl, rfl, rfl, rfl, cues _ _⟩
  · exact ⟨s.resetAll_unitsReset _ _, rfl, rfl, rfl, rfl, rfl, rfl, reset_isSet _, rfl, rfl, rfl, rfl, cues _ _⟩
  · exact congrArg Host.Outcome.next (if_neg (by simp [hl]))

/-- Settles O14: a reset that is due leaves nothing due, so what comes before an event in the one state comes before it in the other. -/
theorem deviceResetEffect : Obligations.DeviceResetEffect := by
  intro s
  refine ⟨fun hl hdue => ⟨s.deviceReset, ?_, s.deviceReset_unitsReset, rfl, rfl, ?_, rfl, rfl, rfl, rfl, fun f => ?_, rfl, rfl, ?_, hl, fun l => ?_,
    fun c ha hr => exec_of_due hl hdue c ha hr⟩, fun h => ?_⟩
  · exact congrArg Host.Outcome.next ((if_neg (by simp [hl])).trans (State.takeReset_of_due hdue))
  · show (if s.linkUp then none else s.tx.hold) = _
    simp only [State.linkUp, beq_iff_eq]
  · exact (isSet_of_same rfl rfl rfl f).trans (reset_isSet .deviceReset f)
  · show (if s.linkUp then [Notice.status] else []) = _
    simp only [State.linkUp, beq_iff_eq]
  · rw [State.lane_deviceReset]
    refine ⟨rfl, ?_⟩
    cases (s.lane l).cue.low <;> rfl
  · refine congrArg Host.Outcome.next ?_
    obtain hl | hn := h
    · exact if_pos hl
    · rw [State.takeReset, if_neg hn, ite_self]

/-- Settles O59: a part without records, items, blocks, routes or notices is in order. -/
theorem resetMeetsInvariants : Obligations.ResetMeetsInvariants := by
  have lane (l : LaneId) : State.reset.lane l = Lane.afterReset false none := by simp [State.lane, State.reset]
  have records : State.reset.RecordsKept := by
    unfold State.RecordsKept
    decide
  have unique : State.reset.NumbersUnique := by
    constructor <;> decide
  have queues : State.reset.QueuesLawful := by
    intro l
    rw [lane]
    exact ⟨Nat.zero_le _, nofun, fun _ => ⟨rfl, rfl⟩⟩
  have lanes : State.reset.LanesLawful := by
    intro l
    rw [lane]
    exact Lane.afterReset_inRange _ _
  have empty (l : LaneId) : (State.reset.lane l).item = none := by
    rw [lane]
    rfl
  have transfer : State.reset.TransferLawful := by
    intro l o ho
    rw [empty l] at ho
    cases ho
  have items : State.reset.ItemsLawful := by
    refine ⟨fun l o ho => ?_, fun c hc => ?_⟩
    · rw [empty l] at ho
      cases ho
    · cases hc
  have buffers : State.reset.BuffersLawful := buffersLawful_reset empty rfl rfl
  have link : State.reset.LinkLawful :=
    ⟨Nat.zero_le _, Nat.zero_le _, nofun, Nat.zero_le _, nofun, List.nodup_nil, nofun, fun _ => ⟨rfl, rfl, rfl⟩⟩
  exact ⟨records, unique, queues, lanes, transfer, items, buffers, link, routesLawful_empty State.reset_route,
    Monitor.reset_lawful, Monitor.reset_lawful⟩

end Sys2Proof.Proofs

/-! The command unit: its first tests, its one reply, and the commands on the part (R161-R163, R167, R170, R171). -/

namespace Sys2Proof.Machine

/-! ### The summary -/

/-- The attention byte of a summary has the bit of a lane exactly when a flag of that lane is set (R163). -/
theorem getLsbD_bits (b : Fin 8 → Bool) (l : Fin 8) :
    (BitVec.ofNat 8 (((List.finRange 8).map fun k => if b k then 2 ^ k.val else 0).sum)).getLsbD l.val = b l := by
  have bits : ((List.finRange 8).map fun k => if b k then 2 ^ k.val else 0).sum = Nat.ofBits b := by
    have bit (k : Fin 8) : (if b k then 2 ^ k.val else 0) = 2 ^ k.val * (b k).toNat := by cases b k <;> simp
    simp only [bit, Nat.ofBits, Fin.foldr_succ, Fin.foldr_zero, List.finRange_succ, List.finRange_zero, List.map_cons, List.map_nil,
      List.sum_cons, List.sum_nil]
    simp [Fin.succ]
    omega
  rw [bits, BitVec.getLsbD_ofNat, Nat.testBit_ofBits_lt _ _ l.isLt]
  simp

/-! ### What a command's body leaves to its reply -/

/-- The commands of the queue, executed and waiting, as `u` gives them. -/
def State.SameQueue (u s : State) : Prop := s.cmd.done = u.cmd.done ∧ s.cmd.waiting = u.cmd.waiting

/-- Only an accepted command has a result (R163). -/
def Reaction.Plain (r : Reaction) : Prop := r.status ≠ .ok → r.result = []

theorem refuse_plain (s : State) (st : Status) : (refuse s st).Plain := fun _ => rfl

theorem accept_plain (s : State) (result : List Byte) : (accept s result).Plain := fun h => absurd rfl h

/-- The body of a command answers it: it leaves the queue alone, and only an acceptance has a result. -/
def AnswersAlone (body : List Byte → State → Reaction) : Prop := ∀ ps s, s.SameQueue (body ps s).state ∧ (body ps s).Plain

theorem AnswersAlone.counted {body : List Byte → State → Reaction} (h : AnswersAlone body) (n : Nat) : AnswersAlone (counted n body) := by
  intro ps s
  unfold Machine.counted
  split
  · exact h ps s
  · exact ⟨⟨rfl, rfl⟩, refuse_plain _ _⟩

theorem answersAlone_onLane {body : LaneId → List Byte → State → Reaction} (h : ∀ l, AnswersAlone (body l)) : AnswersAlone (onLane body) := by
  intro ps s
  unfold onLane
  split
  · exact h _ ps s
  · exact ⟨⟨rfl, rfl⟩, refuse_plain _ _⟩

theorem laneCommands_sameQueue (u : State) : LaneCommandsKeep u.SameQueue :=
  laneCommandsKeep_of_off fun _ _ h hs => ⟨h.calm.done.trans hs.1, h.calm.waiting.trans hs.2⟩

theorem partCommands_sameQueue (u : State) : PartCommandsKeep u.SameQueue :=
  partCommandsKeep_of_calm fun _ _ h hs => ⟨h.done.trans hs.1, h.waiting.trans hs.2⟩

theorem eventRead_plain (ps : List Byte) (s : State) : (eventRead ps s).Plain := by
  unfold eventRead
  split
  · exact accept_plain _ _
  · exact refuse_plain _ _

theorem eventMask_plain (ps : List Byte) (s : State) : (eventMask ps s).Plain := by
  unfold eventMask
  dsimp only
  split
  · exact accept_plain _ _
  · exact refuse_plain _ _

theorem eventForce_plain (ps : List Byte) (s : State) : (eventForce ps s).Plain := by
  unfold eventForce
  split
  · exact accept_plain _ _
  · exact refuse_plain _ _

theorem laneSet_plain (l : LaneId) (ps : List Byte) (s : State) : (laneSet l ps s).Plain := by
  unfold laneSet
  dsimp only
  split
  · exact refuse_plain _ _
  · split
    · exact refuse_plain _ _
    · split
      · exact refuse_plain _ _
      · split
        · exact refuse_plain _ _
        · exact accept_plain _ _

theorem speedSet_plain (l : LaneId) (ps : List Byte) (s : State) : (speedSet l ps s).Plain := by
  unfold speedSet
  dsimp only
  split
  · exact refuse_plain _ _
  · split
    · exact refuse_plain _ _
    · split
      · exact accept_plain _ _
      · split
        · exact refuse_plain _ _
        · exact accept_plain _ _

theorem inject_plain (l : LaneId) (ps : List Byte) (s : State) : (inject l ps s).Plain := by
  unfold inject
  dsimp only
  split
  · exact accept_plain _ _
  · exact refuse_plain _ _

theorem itemQueue_plain (l : LaneId) (ps : List Byte) (s : State) : (itemQueue l ps s).Plain := by
  unfold itemQueue
  dsimp only
  split
  · exact refuse_plain _ _
  · split
    · exact refuse_plain _ _
    · split
      · exact refuse_plain _ _
      · split
        · exact refuse_plain _ _
        · split
          · exact refuse_plain _ _
          · exact accept_plain _ _

theorem itemWithdraw_plain (ps : List Byte) (s : State) : (itemWithdraw ps s).Plain := by
  unfold itemWithdraw
  split
  · exact refuse_plain _ _
  · exact accept_plain _ _
  · exact refuse_plain _ _

theorem itemStart_plain (ps : List Byte) (s : State) : (itemStart ps s).Plain := by
  unfold itemStart
  split
  · exact refuse_plain _ _
  · dsimp only
    split
    · exact refuse_plain _ _
    · split
      · exact refuse_plain _ _
      · exact accept_plain _ _
  · exact refuse_plain _ _

theorem closeByCommand_plain (reason : CloseReason) (ps : List Byte) (s : State) : (closeByCommand reason ps s).Plain := by
  unfold closeByCommand
  split
  · exact refuse_plain _ _
  · exact accept_plain _ _
  · exact refuse_plain _ _

theorem itemMark_plain (ps : List Byte) (s : State) : (itemMark ps s).Plain := by
  unfold itemMark
  dsimp only
  split
  · exact refuse_plain _ _
  · split
    · exact refuse_plain _ _
    · exact accept_plain _ _
    · exact refuse_plain _ _

theorem itemRead_plain (ps : List Byte) (s : State) : (itemRead ps s).Plain := by
  unfold itemRead
  split
  · exact refuse_plain _ _
  · exact accept_plain _ _

theorem itemRelease_plain (ps : List Byte) (s : State) : (itemRelease ps s).Plain := by
  unfold itemRelease
  split
  · exact refuse_plain _ _
  · exact accept_plain _ _
  · exact refuse_plain _ _

theorem routeSet_plain (ps : List Byte) (s : State) : (routeSet ps s).Plain := by
  unfold routeSet
  split
  · exact refuse_plain _ _
  · split
    · exact refuse_plain _ _
    · split
      · exact refuse_plain _ _
      · split
        · exact refuse_plain _ _
        · exact accept_plain _ _

theorem routeClear_plain (ps : List Byte) (s : State) : (routeClear ps s).Plain := by
  unfold routeClear
  split
  · exact refuse_plain _ _
  · split
    · exact refuse_plain _ _
    · exact accept_plain _ _

theorem routeRead_plain (ps : List Byte) (s : State) : (routeRead ps s).Plain := by
  unfold routeRead
  split
  · exact refuse_plain _ _
  · exact accept_plain _ _

theorem monitorSelect_plain (ps : List Byte) (s : State) : (monitorSelect ps s).Plain := by
  unfold monitorSelect
  split
  · exact accept_plain _ _
  · split
    · exact accept_plain _ _
    · exact refuse_plain _ _
  · exact accept_plain _ _
  · exact refuse_plain _ _

theorem monitorStatus_plain (ps : List Byte) (s : State) : (monitorStatus ps s).Plain := by
  unfold monitorStatus
  split
  · exact refuse_plain _ _
  · exact accept_plain _ _

/-! ### The rows of the command code table -/

/-- What a row's command executes: a body that answers the command, behind the test of the parameter count. -/
def RowBody (row : Instr × Byte × Nat) (body : List Byte → State → Reaction) : Prop :=
  (∀ s, exec row.1 s = command s row.2.1 (counted row.2.2 body)) ∧ AnswersAlone body

theorem itemRead_state (ps : List Byte) (s : State) : (itemRead ps s).state = s := by
  unfold itemRead
  split <;> rfl

theorem routeRead_state (ps : List Byte) (s : State) : (routeRead ps s).state = s := by
  unfold routeRead
  split <;> rfl

theorem exec_row : ∀ row ∈ commandTable, ∃ body, RowBody row body := by
  have lane (u : State) := laneCommands_sameQueue u
  have part (u : State) := partCommands_sameQueue u
  have own {u : State} : u.SameQueue u := ⟨rfl, rfl⟩
  have onlane {i : Instr} {code : Byte} {n : Nat} (body : LaneId → List Byte → State → Reaction)
      (hx : ∀ s, exec i s = command s code (counted n (onLane body))) (hk : ∀ l ps u, u.SameQueue (body l ps u).state)
      (hp : ∀ l ps s, (body l ps s).Plain) : ∃ body, RowBody (i, code, n) body :=
    ⟨_, hx, answersAlone_onLane fun l ps s => ⟨hk l ps s, hp l ps s⟩⟩
  simp only [commandTable, List.forall_mem_cons]
  exact ⟨⟨probe, fun _ => rfl, fun _ _ => ⟨own, accept_plain _ _⟩⟩,
    ⟨deviceResetCommand, fun _ => rfl, fun ps s => ⟨(part s).deviceResetCommand ps s own, accept_plain _ _⟩⟩,
    ⟨linkStats, fun _ => rfl, fun ps s => ⟨(part s).linkStats ps s own, accept_plain _ _⟩⟩,
    ⟨eventRead, fun _ => rfl, fun ps s => ⟨(part s).eventRead ps s own, eventRead_plain ps s⟩⟩,
    ⟨eventMask, fun _ => rfl, fun ps s => ⟨(part s).eventMask ps s own, eventMask_plain ps s⟩⟩,
    ⟨eventForce, fun _ => rfl, fun ps s => ⟨(part s).eventForce ps s own, eventForce_plain ps s⟩⟩,
    onlane laneSet (fun _ => rfl) (fun l ps u => (lane u).laneSet l ps u own) laneSet_plain,
    onlane laneGet (fun _ => rfl) (fun _ _ _ => own) (fun _ _ _ => accept_plain _ _),
    onlane laneStatus (fun _ => rfl) (fun l ps u => (lane u).laneStatus l ps u own) (fun _ _ _ => accept_plain _ _),
    onlane laneReset (fun _ => rfl) (fun l ps u => (lane u).laneReset l ps u own) (fun _ _ _ => accept_plain _ _),
    onlane speedSet (fun _ => rfl) (fun l ps u => (lane u).speedSet l ps u own) speedSet_plain,
    onlane inject (fun _ => rfl) (fun l ps u => (lane u).inject l ps u own) inject_plain,
    ⟨itemWithdraw, fun _ => rfl, fun ps s => ⟨(lane s).itemWithdraw ps s own, itemWithdraw_plain ps s⟩⟩,
    ⟨itemStart, fun _ => rfl, fun ps s => ⟨(lane s).itemStart ps s own, itemStart_plain ps s⟩⟩,
    ⟨closeByCommand .command, fun _ => rfl, fun ps s => ⟨(lane s).closeByCommand _ ps s own, closeByCommand_plain _ ps s⟩⟩,
    ⟨closeByCommand .abandoned, fun _ => rfl, fun ps s => ⟨(lane s).closeByCommand _ ps s own, closeByCommand_plain _ ps s⟩⟩,
    ⟨itemMark, fun _ => rfl, fun ps s => ⟨(lane s).itemMark ps s own, itemMark_plain ps s⟩⟩,
    ⟨itemRead, fun _ => rfl, fun ps s => ⟨(itemRead_state ps s).symm ▸ own, itemRead_plain ps s⟩⟩,
    ⟨itemRelease, fun _ => rfl, fun ps s => ⟨(lane s).itemRelease ps s own, itemRelease_plain ps s⟩⟩,
    ⟨tableStatus, fun _ => rfl, fun _ _ => ⟨own, accept_plain _ _⟩⟩,
    ⟨routeSet, fun _ => rfl, fun ps s => ⟨(part s).routeSet ps s own, routeSet_plain ps s⟩⟩,
    ⟨routeClear, fun _ => rfl, fun ps s => ⟨(part s).routeClear ps s own, routeClear_plain ps s⟩⟩,
    ⟨routeRead, fun _ => rfl, fun ps s => ⟨(routeRead_state ps s).symm ▸ own, routeRead_plain ps s⟩⟩,
    ⟨monitorSelect, fun _ => rfl, fun ps s => ⟨(part s).monitorSelect ps s own, monitorSelect_plain ps s⟩⟩,
    ⟨monitorStatus, fun _ => rfl, fun ps s => ⟨(part s).monitorStatus ps s own, monitorStatus_plain ps s⟩⟩,
    List.forall_mem_nil _⟩

/-- The body of ITEM_QUEUE: the length test, then the lane test. -/
def itemQueueBody (ps : List Byte) (s : State) : Reaction :=
  if 15 ≤ ps.length && ps.length == 15 + field ps 14 1 then onLane itemQueue ps s else refuse s .badParam

theorem exec_itemQueue (s : State) : exec .itemQueue s = command s 0x30 itemQueueBody := rfl

theorem itemQueueBody_answersAlone : AnswersAlone itemQueueBody := by
  intro ps s
  unfold itemQueueBody
  split
  · exact answersAlone_onLane (fun l ps u => ⟨(laneCommands_sameQueue u).itemQueue l ps u ⟨rfl, rfl⟩, itemQueue_plain l ps u⟩) ps s
  · exact ⟨⟨rfl, rfl⟩, refuse_plain _ _⟩

/-- A command whose lane comes first executes its body behind the lane test. -/
theorem exec_lane_row {row : Instr × Byte × Nat} (h : row ∈ commandTable)
    (hl : row.1 ∈ [.laneSet, .laneGet, .laneStatus, .laneReset, .speedSet, .inject]) :
    ∃ body, ∀ s, exec row.1 s = command s row.2.1 (counted row.2.2 (onLane body)) := by
  obtain ⟨i, code, n⟩ := row
  simp only [List.mem_cons, List.not_mem_nil, or_false] at hl
  obtain rfl | rfl | rfl | rfl | rfl | rfl := hl
  · obtain ⟨rfl, rfl⟩ : code = 0x20#8 ∧ n = 37 := by simpa [commandTable] using h
    exact ⟨laneSet, fun _ => rfl⟩
  · obtain ⟨rfl, rfl⟩ : code = 0x21#8 ∧ n = 1 := by simpa [commandTable] using h
    exact ⟨laneGet, fun _ => rfl⟩
  · obtain ⟨rfl, rfl⟩ : code = 0x22#8 ∧ n = 1 := by simpa [commandTable] using h
    exact ⟨laneStatus, fun _ => rfl⟩
  · obtain ⟨rfl, rfl⟩ : code = 0x23#8 ∧ n = 1 := by simpa [commandTable] using h
    exact ⟨laneReset, fun _ => rfl⟩
  · obtain ⟨rfl, rfl⟩ : code = 0x24#8 ∧ n = 5 := by simpa [commandTable] using h
    exact ⟨speedSet, fun _ => rfl⟩
  · obtain ⟨rfl, rfl⟩ : code = 0x25#8 ∧ n = 3 := by simpa [commandTable] using h
    exact ⟨inject, fun _ => rfl⟩

/-! ### A command by its code -/

theorem counted_of_length {ps : List Byte} {n : Nat} (h : ps.length = n) (body : List Byte → State → Reaction) (s : State) :
    counted n body ps s = body ps s := if_pos h

theorem counted_of_ne {ps : List Byte} {n : Nat} (h : ps.length ≠ n) (body : List Byte → State → Reaction) (s : State) :
    counted n body ps s = refuse s .badParam := if_neg h

/-- A command that its body refuses is answered with the status and nothing else. -/
theorem command_refused {s : State} {c : Command} (hr : s.ready c = true) {code : Byte} (hc : c.code = code)
    {body : List Byte → State → Reaction} {st : Status} (h : body c.params s.takeCommand = refuse s.takeCommand st) :
    command s code body = .next (s.answered c st) := by
  rw [command_of_code hr hc, h, reply_refuse]

/-- While a DEVICE_RESET awaits its reply's sending no command is executed (R171). -/
theorem command_of_replyAwaited {s : State} (ha : s.awake = true) (h : s.cmd.reset = .replyAwaited) (mine : Byte → Bool)
    (body : List Byte → State → Reaction) : running s (fun s => s.runCommand mine body) = .next s := by
  rw [running_of_awake ha, State.runCommand, h]

/-! ### The hold limit -/

/-- No hold has reached its limit without its LINK_STALL: nothing comes at once (R126). -/
theorem State.takeHoldLimit_of_below {s : State} (h : ∀ k, s.tx.hold = some k → s.tx.holdLimit = 0 ∨ k.timer < s.tx.holdLimit ∨ k.stalled = true) :
    s.takeHoldLimit = s := by
  unfold State.takeHoldLimit
  split
  case h_1 k hk =>
    refine if_neg fun hb => ?_
    obtain hz | hlt | hs := h k hk
    · simp_all
    · omega
    · simp_all
  case h_2 => rfl

theorem State.takeHoldLimit_of_reached {s : State} {timer : Nat} (h : s.tx.hold = some ⟨timer, false⟩) (hz : s.tx.holdLimit ≠ 0)
    (hle : s.tx.holdLimit ≤ timer) :
    s.takeHoldLimit = ({ s with tx := { s.tx with hold := some ⟨timer, true⟩ } } : State).raise (.device .linkStall) := by
  simp [State.takeHoldLimit, h, hz, hle]

/-- The mask and the hold limit that EVENT_MASK writes (R167). -/
def State.masked (s : State) (ps : List Byte) : State :=
  { s with
    events := { s.events with mask := BitVec.ofNat 9 (field ps 0 2) }
    tx := { s.tx with holdLimit := field ps 2 2 } }

theorem eventMask_of_accepted {ps : List Byte} (h : field ps 0 2 < 512 ∧ (field ps 2 2 = 0 ∨ (10 ≤ field ps 2 2 ∧ field ps 2 2 ≤ 60000)))
    (s : State) : eventMask ps s = accept (s.masked ps).takeHoldLimit (be 2 s.events.mask.toNat ++ be 2 s.tx.holdLimit) := if_pos h

end Sys2Proof.Machine

namespace Sys2Proof.Proofs
open Sys2Proof.Machine

/-- Settles O6: the tests stand before the body that the row's command executes. -/
theorem earlyTests : Obligations.EarlyTests := by
  refine ⟨fun s c hr hc => ?_, fun row hrow s c hr hc hn => ?_, fun s c hr hc hn => ?_, fun row hrow hl s c hr hc hn h8 => ?_,
    fun s c hr hc hle hn h8 => ?_⟩
  · have unknown : (!commandCodes.contains c.code) = true := by
      rw [Bool.not_eq_true', ← Bool.not_eq_true, List.contains_iff_mem]
      exact hc
    exact command_of_ready hr (mine := fun c => !commandCodes.contains c) unknown fun _ s => refuse s .unknownCommand
  · obtain ⟨body, hx, -⟩ := exec_row row hrow
    rw [hx, command_refused hr hc (counted_of_ne hn body _)]
  · refine command_refused hr hc (body := itemQueueBody) ?_
    exact if_neg fun hb => hn (by simpa using hb)
  · obtain ⟨body, hx⟩ := exec_lane_row hrow hl
    rw [hx, command_refused hr hc]
    rw [counted_of_length hn, onLane_of_le h8]
  · refine command_refused hr hc (body := itemQueueBody) ?_
    rw [itemQueueBody, if_pos (by simp [hle, ← hn]), onLane_of_le h8]

/-- Settles O7: the body leaves the queue alone, so the reply joins it with the summary of the state that the body leaves. -/
theorem everyCommandReplies : Obligations.EveryCommandReplies := by
  intro i code hi s c hr hc
  obtain ⟨body, hx, halone⟩ : ∃ body, exec i s = command s code body ∧ AnswersAlone body := by
    obtain hrow | hq := hi
    · obtain ⟨row, hmem, e⟩ := List.mem_map.mp hrow
      obtain ⟨rfl, rfl⟩ := Prod.mk.inj e
      obtain ⟨body, hx, ha⟩ := exec_row row hmem
      exact ⟨_, hx s, ha.counted _⟩
    · obtain ⟨rfl, rfl⟩ := Prod.mk.inj hq
      exact ⟨_, exec_itemQueue s, itemQueueBody_answersAlone⟩
  obtain ⟨⟨hdone, hwait⟩, hplain⟩ := halone c.params s.takeCommand
  refine ⟨_, _, hx.trans (command_of_code hr hc body), congrArg (· ++ _) hdone, hwait, rfl, rfl, hplain, fun l => ?_, rfl, rfl, rfl, rfl⟩
  exact getLsbD_bits (fun l => (body c.params s.takeCommand).state.events.lanes[l] != 0) l

/-- Settles O9: the result is taken before the counters are cleared. -/
theorem linkStatsRead : Obligations.LinkStatsRead := by
  intro s tag hr
  exact command_counted_of_ready (n := 0) hr rfl linkStats

/-- Settles O11, by what the hold in progress makes of the new limit. -/
theorem eventMaskWrites : Obligations.EventMaskWrites := by
  intro s tag ps hr hn
  have run : exec .eventMask s = .next ((eventMask ps s.takeCommand).reply ⟨tag, 0x11, ps⟩) := command_counted_of_ready hr hn eventMask
  refine ⟨fun hno => ?_, fun hyes hbelow => ?_, fun hyes timer hh hz hle => ?_⟩
  · rw [run, eventMask, if_neg hno, reply_refuse]
  · rw [run, eventMask_of_accepted hyes, State.takeHoldLimit_of_below (s := s.takeCommand.masked ps) hbelow]
    rfl
  · rw [run, eventMask_of_accepted hyes, State.takeHoldLimit_of_reached (s := s.takeCommand.masked ps) hh hz hle]
    rfl

/-- Settles O13: the reply stands in the queue before the reset, and the command unit executes nothing that is not idle. -/
theorem deviceResetCommand : Obligations.DeviceResetCommand := by
  refine ⟨fun s tag hr => ?_, fun i hi s ha hres => ?_⟩
  · have run : exec .deviceReset s = .next ((Machine.deviceResetCommand [] s.takeCommand).reply ⟨tag, 0x02, []⟩) :=
      command_counted_of_ready (n := 0) hr rfl Machine.deviceResetCommand
    have up : s.takeCommand.linkUp = (s.rx.state == .up) := rfl
    rw [run, Machine.deviceResetCommand, up]
    simp only [beq_iff_eq]
    rfl
  · obtain hrow | rfl | rfl := hi
    · obtain ⟨row, hmem, rfl⟩ := List.mem_map.mp hrow
      obtain ⟨body, hx, -⟩ := exec_row row hmem
      rw [hx]
      exact command_of_replyAwaited ha hres _ _
    · exact command_of_replyAwaited ha hres _ _
    · exact command_of_replyAwaited ha hres _ _

end Sys2Proof.Proofs

/-! The lane and monitor commands that read, the speed, and the events of the link's signal and of a hold (R61, R62, R96, R126, R155, R157, R158). -/

namespace Sys2Proof.Machine

/-! ### Bytes -/

theorem bit_eq_be (b : Bool) : [bit b] = be 1 b.toNat := by cases b <;> rfl

/-- The transfer state's byte, by what the lane holds (R23, R176). -/
theorem Lane.transfer_code (x : Lane) : x.transfer.code = if x.profile.enabled = false then 0 else match x.item with
    | some o => if o.dropout = none then 3 else 4
    | none => if x.queue = [] then 1 else 2 := by
  unfold Lane.transfer
  cases x.profile.enabled with
  | false => rfl
  | true =>
    cases x.item with
    | none => cases x.queue <;> rfl
    | some o => cases ho : o.dropout <;> simp [ho, TransferState.code]

/-- A declared value present or absent (R96, R177; log 12). -/
def Lane.declaredBytes (x : Lane) : List Byte :=
  [bit x.port.declared.isSome] ++ optional 2 (x.port.declared.map fun d => be 2 d.deck.toNat)
    ++ optional 1 (x.port.declared.map fun d => [rateByte d.rate]) ++ optional 1 (x.port.declared.map fun d => be 1 d.channels.count)

/-! ### Ratios -/

theorem Ratio.valid_iff {r : Ratio} (hp : r.p < 65536) (hq : r.q < 65536) :
    r.valid = true ↔ 1 ≤ r.p ∧ 1 ≤ r.q ∧ r.q ≤ 4 * r.p ∧ r.p ≤ 4 * r.q := by
  simp only [Ratio.valid, Bool.and_eq_true, decide_eq_true_eq]
  omega

theorem Recording.ratioInForce_of_last {r : Recording} {g : Segment} (h : r.segments.getLast? = some g) : r.ratioInForce = g.ratio := by
  rw [Recording.ratioInForce, h]
  rfl

theorem OpenItem.speedSet_same {o : OpenItem} {r : Ratio} (h : r.same o.record.ratioInForce = true) :
    o.speedSet r = some { o with pendingSpeed := none } := if_pos h

theorem OpenItem.speedSet_pending {o : OpenItem} {r : Ratio} (h : r.same o.record.ratioInForce = false)
    (hroom : o.record.segments.length < 8) : o.speedSet r = some { o with pendingSpeed := some r } := by
  rw [OpenItem.speedSet, if_neg (by simp [h])]
  exact if_pos hroom

theorem OpenItem.speedSet_full {o : OpenItem} {r : Ratio} (h : r.same o.record.ratioInForce = false)
    (hfull : 8 ≤ o.record.segments.length) : o.speedSet r = none := by
  rw [OpenItem.speedSet, if_neg (by simp [h])]
  exact if_neg (Nat.not_lt.mpr hfull)

theorem speedSet_empty {l : LaneId} {ps : List Byte} {s : State} (he : (s.lane l).profile.enabled = true)
    (hv : (⟨field ps 1 2, field ps 3 2⟩ : Ratio).valid = true) (hi : (s.lane l).item = none) :
    speedSet l ps s = accept (s.setLane l { s.lane l with profile := { (s.lane l).profile with ratio := ⟨field ps 1 2, field ps 3 2⟩ } })
      (be 2 (field ps 1 2) ++ be 2 (field ps 3 2) ++ be 4 0 ++ be 1 0 ++ [bit false]) := by
  simp [speedSet, he, hv, hi, State.mapLane]

theorem speedSet_item {l : LaneId} {ps : List Byte} {s : State} (he : (s.lane l).profile.enabled = true)
    (hv : (⟨field ps 1 2, field ps 3 2⟩ : Ratio).valid = true) {o p : OpenItem} (hi : (s.lane l).item = some o)
    (hp : o.speedSet ⟨field ps 1 2, field ps 3 2⟩ = some p) :
    speedSet l ps s = accept (s.setLane l { s.lane l with
        profile := { (s.lane l).profile with ratio := ⟨field ps 1 2, field ps 3 2⟩ }
        item := some p })
      (be 2 (field ps 1 2) ++ be 2 (field ps 3 2) ++ be 4 p.queued.item.toNat ++ be 1 p.record.segments.length ++
        [bit p.pendingSpeed.isSome]) := by
  simp [speedSet, he, hv, hi, hp, State.mapLane]

theorem speedSet_full {l : LaneId} {ps : List Byte} {s : State} (he : (s.lane l).profile.enabled = true)
    (hv : (⟨field ps 1 2, field ps 3 2⟩ : Ratio).valid = true) {o : OpenItem} (hi : (s.lane l).item = some o)
    (hp : o.speedSet ⟨field ps 1 2, field ps 3 2⟩ = none) : speedSet l ps s = refuse s .segmentsFull := by
  simp [speedSet, he, hv, hi, hp]

/-! ### The link leaves UP -/

theorem State.leaveUp_linkLeaves (s : State) : s.LinkLeaves s.leaveUp := by
  unfold State.LinkLeaves State.leaveUp State.breakPacket State.cutOff
  cases hp : s.rx.packet with
  | none => simp [hp, State.refreshHold, State.holding, State.linkUp] <;> rfl
  | some p => simp [State.refreshHold, State.holding, State.linkUp, State.countMalformed, State.count, bump, sat_eq, Config.count32] <;> rfl

/-! ### The settled state -/

theorem State.takeHoldLimit_of_awake {s : State} (h : s.awake = true) : s.takeHoldLimit = s := by
  refine State.takeHoldLimit_of_below fun k hk => ?_
  simp only [State.awake, State.settled, hk, Bool.and_eq_true, Bool.or_eq_true, beq_iff_eq, decide_eq_true_eq] at h
  tauto

theorem State.settle_of_not_due {s : State} (h : s.cmd.reset ≠ .due) : s.settle = s.takeHoldLimit := congrArg State.takeHoldLimit (if_neg h)

/-- LINK_STALL is set once for a hold: it leaves nothing to come before an event (R126). -/
theorem State.settle_takeHoldLimit {s : State} {timer : Nat} (hdue : s.cmd.reset ≠ .due) (h : s.tx.hold = some ⟨timer, false⟩)
    (hz : s.tx.holdLimit ≠ 0) (hle : s.tx.holdLimit ≤ timer) :
    s.takeHoldLimit.settle = s.takeHoldLimit ∧ s.takeHoldLimit.takeHoldLimit = s.takeHoldLimit := by
  rw [State.takeHoldLimit_of_reached h hz hle]
  have stays := State.takeHoldLimit_of_below
    (s := ({ s with tx := { s.tx with hold := some ⟨timer, true⟩ } } : State).raise (.device .linkStall))
    fun k hk => .inr (.inr (Option.some.inj hk ▸ rfl))
  refine ⟨?_, stays⟩
  rw [State.settle_of_not_due (by exact hdue)]
  exact stays

/-- A reset of the whole part does not see a LINK_STALL set before it, whose flag leaves the reset cause. -/
theorem State.resetAll_takeHoldLimit (s : State) :
    s.takeHoldLimit.resetAll true s.takeHoldLimit.events.cause = s.resetAll true s.events.cause := by
  unfold State.takeHoldLimit
  split
  · split
    · exact congrArg (s.resetAll true) (EventUnit.raise_cause s.events s.linkUp _ _)
    · rfl
  · rfl

end Sys2Proof.Machine

namespace Sys2Proof.Proofs
open Sys2Proof.Machine

/-- Settles O18: the bytes are of the lane before its counters are cleared. -/
theorem laneStatusRead : Obligations.LaneStatusRead := by
  intro s tag ps l hr hn hl
  have run : exec .laneStatus s = .next ((laneStatus l ps s.takeCommand).reply ⟨tag, 0x22, ps⟩) :=
    (command_counted_of_ready hr hn (onLane laneStatus)).trans (by rw [onLane_of_field hl])
  dsimp only
  have bytes : (s.lane l).statusBytes = be 1 (s.lane l).port.lock.code ++ be 4 (s.lane l).port.measured ++ be 1 (s.lane l).inUse.rate.val ++
      be 1 (s.lane l).inUse.channels.count ++ be 2 (s.lane l).inUse.deck.toNat ++ (s.lane l).declaredBytes ++
      be 1 (s.lane l).port.motion.code ++ be 1 (s.lane l).cue.level.toNat ++ be 1 (s.lane l).transfer.code ++
      be 6 (s.lane l).port.counter.toNat ++ be 2 (s.lane l).port.injection ++ be 4 (s.lane l).port.concealed ++
      be 2 (s.lane l).port.rejected := by
    simp only [Lane.statusBytes, Lane.declaredBytes, rateByte_eq_be, bit_eq_be, List.append_assoc]
  have declared : (s.lane l).declaredBytes = match (s.lane l).port.declared with
      | none => [0] ++ [0, 0, 0] ++ [0, 0] ++ [0, 0]
      | some d => [1] ++ 1 :: be 2 d.deck.toNat ++ 1 :: be 1 d.rate.val ++ 1 :: be 1 d.channels.count := by
    unfold Lane.declaredBytes
    cases (s.lane l).port.declared with
    | none => rfl
    | some d => simp [Machine.optional, bit, rateByte_eq_be]
  refine run.trans (congrArg (fun bs => Host.Outcome.next (State.answered (State.setLane s l _) ⟨tag, 0x22, ps⟩ .ok bs)) ?_)
  show (s.lane l).statusBytes = _
  rw [bytes, declared, Lane.transfer_code] <;> rfl

/-- Settles O20, by the open item and its last segment. -/
theorem speedSet : Obligations.SpeedSet := by
  intro s tag ps l hr hn hl
  have run : exec .speedSet s = .next ((Machine.speedSet l ps s.takeCommand).reply ⟨tag, 0x24, ps⟩) :=
    (command_counted_of_ready hr hn (onLane Machine.speedSet)).trans (by rw [onLane_of_field hl])
  have valid := Ratio.valid_iff (r := ⟨field ps 1 2, field ps 3 2⟩) (field_lt ps 1 2) (field_lt ps 3 2)
  dsimp only
  have same {o : OpenItem} {g : Segment} (hg : o.record.segments.getLast? = some g) :
      (⟨field ps 1 2, field ps 3 2⟩ : Ratio).same o.record.ratioInForce = decide (field ps 1 2 * g.ratio.q = g.ratio.p * field ps 3 2) := by
    rw [Recording.ratioInForce_of_last hg]
    rfl
  have on : s.takeCommand.lane l = s.lane l := rfl
  refine ⟨fun he => ?_, fun he hb => ?_, fun he hb hi => ?_, fun he hb o g hi hg => ⟨fun heq => ?_, fun hne hroom => ?_, fun hne hfull => ?_⟩⟩
  · rw [run, Machine.speedSet, on, he]
    rfl
  · have bad : (⟨field ps 1 2, field ps 3 2⟩ : Ratio).valid = false := Bool.eq_false_iff.mpr fun h => hb (valid.mp h)
    rw [run, Machine.speedSet, on, he, bad]
    rfl
  · rw [run, speedSet_empty (s := s.takeCommand) he (valid.mpr hb) hi]
    rfl
  · rw [run, speedSet_item (s := s.takeCommand) he (valid.mpr hb) hi (OpenItem.speedSet_same ((same hg).trans (decide_eq_true heq)))]
    rfl
  · rw [run, speedSet_item (s := s.takeCommand) he (valid.mpr hb) hi (OpenItem.speedSet_pending ((same hg).trans (decide_eq_false hne)) hroom)]
    rfl
  · rw [run, speedSet_full (s := s.takeCommand) he (valid.mpr hb) hi (OpenItem.speedSet_full ((same hg).trans (decide_eq_false hne)) hfull)]
    rfl

/-- Settles O44: the bytes are of the port before its underrun counter is cleared. -/
theorem monitorStatus : Obligations.MonitorStatus := by
  intro s tag ps hr hn
  have run : exec .monitorStatus s = .next ((Machine.monitorStatus ps s.takeCommand).reply ⟨tag, 0x51, ps⟩) :=
    command_counted_of_ready hr hn Machine.monitorStatus
  refine ⟨fun h => ?_, fun id hid => ?_⟩
  · have nothing : monitorOfCode (field ps 0 1) = none := by
      match hf : field ps 0 1, h with
      | n + 2, _ => rfl
    rw [run, Machine.monitorStatus, nothing]
    rfl
  · have found : monitorOfCode (field ps 0 1) = some id := by
      obtain ⟨rfl, hf⟩ | ⟨rfl, hf⟩ := hid <;> rw [hf] <;> rfl
    have bytes (m : Monitor) : s.takeCommand.monitorBytes m = (match m.source with
          | .none => [0, 0]
          | .lane l => 1 :: be 1 l.val
          | .routed => [2, 0]) ++
          be 1 m.state.code ++ be 1 (s.outputRate m).val ++ be 2 m.fifo.length ++
          (match m.ref with
            | some f => 1 :: be 1 f.route.val ++ be 1 f.format.rate.val ++ be 1 f.format.channels.count ++ [if f.final = true then 1 else 0]
            | none => [0, 0, 0, 0, 0]) ++
          be 1 m.pace.code ++ be 4 m.underruns := by
      unfold State.monitorBytes
      cases m.source <;> cases m.ref <;> rfl
    have answer : exec .monitorStatus s = .next (State.answered (s.setMonitor id { s.monitor id with underruns := 0 }) ⟨tag, 0x51, ps⟩ .ok
        (s.takeCommand.monitorBytes (s.monitor id))) := by
      rw [run, Machine.monitorStatus, found]
      cases id <;> rfl
    rw [answer, bytes] <;> rfl

/-- Settles O46, by the link state. -/
theorem linkSignal : Obligations.LinkSignal := by
  intro s ha
  have hlow : s.resetLow = false := by
    simp only [State.awake, Bool.and_eq_true, Bool.not_eq_true'] at ha
    exact ha.1
  have hsettle : s.settle = s := by
    simp only [State.awake, Bool.and_eq_true] at ha
    exact State.settle_of_settled ha.2
  have appear : exec .linkSignalAppear s = .next s.signalAppears :=
    congrArg Host.Outcome.next ((if_neg (by simp [hlow])).trans (congrArg State.signalAppears hsettle))
  have lost : exec .linkSignalLost s = .next s.signalLost :=
    congrArg Host.Outcome.next ((if_neg (by simp [hlow])).trans (congrArg State.signalLost hsettle))
  refine ⟨fun h => ?_, fun h => ?_, fun h => ?_, fun h => ?_, fun h => ⟨_, lost, ?_⟩⟩
  · rw [appear, State.signalAppears, h]
  · rw [appear, State.signalAppears]
    cases hs : s.rx.state with
    | down => exact absurd hs h
    | aligning => rfl
    | up => rfl
  · simp only [lost, State.signalLost, h]
  · simp only [lost, State.signalLost, h]
  · simp only [State.signalLost, h]
    exact State.leaveUp_linkLeaves _

/-- Settles O50: the state after the LINK_STALL is what every event finds. -/
theorem holdTimer : Obligations.HoldTimer := by
  intro s
  refine ⟨fun ha => ⟨?_, fun hh => ?_, fun k hk => ?_⟩, fun timer hlow hdue hh hz hle => ?_⟩
  · exact (running_of_awake ha _).trans (congrArg Host.Outcome.next (State.takeHoldLimit_of_awake ha))
  · exact (running_of_awake ha _).trans (congrArg Host.Outcome.next (by rw [State.holdTick, hh]))
  · refine (running_of_awake ha _).trans (congrArg Host.Outcome.next ?_)
    simp [State.holdTick, hk, State.count, bump, sat_eq, Config.count32]
  · dsimp only
    have reached : s.takeHoldLimit = _ := State.takeHoldLimit_of_reached hh hz hle
    have settled : s.settle = s.takeHoldLimit := State.settle_of_not_due hdue
    obtain ⟨again, once⟩ := State.settle_takeHoldLimit hdue hh hz hle
    have low : s.takeHoldLimit.resetLow = false := by
      rw [reached]
      exact hlow
    rw [← reached]
    refine ⟨?_, fun c hd hr => ?_⟩
    · show Host.Outcome.next (if s.resetLow then s else s.settle.takeHoldLimit) = _
      rw [if_neg (by simp [hlow]), settled, once]
    · by_cases hp : c = .powerOn
      · subst hp
        rw [reached]
        rfl
      · by_cases hra : c = .resetLineAssert
        · subst hra
          exact congrArg Host.Outcome.next s.resetAll_takeHoldLimit.symm
        · exact exec_of_settle hlow low (settled.trans again.symm) c hp hra hr hd

end Sys2Proof.Proofs

/-! Programme time (R54-R58). -/

namespace Sys2Proof.Machine

/-- R(d, k) is the exact quotient with a half added, rounded down (R54). -/
theorem segmentTime_eq_floor {fs : Nat} {k : Ratio} (hf : 0 < fs) (hq : 0 < k.q) (d : Nat) :
    (segmentTime fs k d : ℤ) = ⌊((d * 1000000 * k.p : ℕ) : ℚ) / (fs * k.q : ℕ) + 1 / 2⌋ := by
  have exact : ((d * 1000000 * k.p : ℕ) : ℚ) / (fs * k.q : ℕ) + 1 / 2 =
      ((2 * d * 1000000 * k.p + fs * k.q : ℕ) : ℚ) / (2 * fs * k.q : ℕ) := by
    have f0 : (fs : ℚ) ≠ 0 := by exact_mod_cast hf.ne'
    have q0 : (k.q : ℚ) ≠ 0 := by exact_mod_cast hq.ne'
    push_cast
    field_simp
  rw [exact, Rat.floor_natCast_div_natCast]
  rfl

theorem segmentTime_zero (fs : Nat) (k : Ratio) : segmentTime fs k 0 = 0 := by
  rw [segmentTime, Nat.mul_assoc 2 fs]
  simp only [Nat.mul_zero, Nat.zero_mul, Nat.zero_add]
  rcases Nat.eq_zero_or_pos (fs * k.q) with h | h
  · rw [h]
  · exact Nat.div_eq_of_lt (by omega)

theorem segmentTime_mono (fs : Nat) (k : Ratio) {d e : Nat} (h : d ≤ e) : segmentTime fs k d ≤ segmentTime fs k e := by
  unfold segmentTime
  gcongr

/-- In a record whose segments are in order they start one behind the other. -/
theorem Recording.SegmentsLawful.starts {r : Recording} (h : r.SegmentsLawful) : r.segments.Pairwise fun g k => g.start < k.start := by
  obtain ⟨-, -, hchain, -⟩ := h
  exact (hchain.imp fun _ _ hf => hf.1).pairwise

/-- The segment of an offset is the last one that starts at the offset or before (R55). -/
theorem segmentAt_eq {segs : List Segment} (hs : segs.Pairwise fun g k => g.start < k.start) {g : Segment} {n : Nat} (hg : g ∈ segs)
    (hle : g.start ≤ n) (hmax : ∀ k ∈ segs, k.start ≤ n → k.start ≤ g.start) : segmentAt segs n = g := by
  obtain ⟨as, bs, rfl⟩ := List.append_of_mem hg
  have behind : ∀ k ∈ bs, g.start < k.start := (List.pairwise_cons.mp (List.pairwise_append.mp hs).2.1).1
  have none : bs.filter (fun k => decide (k.start ≤ n)) = [] := List.filter_eq_nil_iff.mpr fun k hk hkn => by
    have := hmax k (by simp [hk]) (of_decide_eq_true hkn)
    have := behind k hk
    omega
  simp [segmentAt, List.filter_append, hle, none]

theorem Recording.prog_eq {r : Recording} (h : r.SegmentsLawful) {g : Segment} {n : Nat} (hg : g ∈ r.segments) (hle : g.start ≤ n)
    (hmax : ∀ k ∈ r.segments, k.start ≤ n → k.start ≤ g.start) :
    r.prog n = g.programme + segmentTime (rateHz r.rate) g.ratio (n - g.start) := by
  rw [Recording.prog, segmentAt_eq h.starts hg hle hmax]

theorem Recording.prog_start {r : Recording} (h : r.SegmentsLawful) {g : Segment} (hg : g ∈ r.segments) : r.prog g.start = g.programme := by
  rw [r.prog_eq h hg le_rfl fun _ _ hk => hk, Nat.sub_self, segmentTime_zero, Nat.add_zero]

/-- One frame on, the programme time is in the same segment, or at the start of the next, which is where the segment before it ends. -/
theorem Recording.prog_le_succ {r : Recording} (h : r.SegmentsLawful) (n : Nat) : r.prog n ≤ r.prog (n + 1) := by
  by_cases hnew : ∃ k ∈ r.segments, k.start = n + 1
  · obtain ⟨k, hk, hstart⟩ := hnew
    obtain ⟨as, bs, hsegs⟩ := List.append_of_mem hk
    obtain ⟨-, ⟨first, hfirst, hzero, -⟩, hchain, -⟩ := id h
    have hne : as ≠ [] := fun hnil => by
      rw [hsegs, hnil] at hfirst
      obtain rfl : k = first := Option.some.inj hfirst
      omega
    obtain ⟨init, g, rfl⟩ := as.eq_nil_or_concat.resolve_left hne
    simp only [List.concat_eq_append] at hsegs
    have hsorted := hsegs ▸ h.starts
    have hfollows : Segment.Follows (rateHz r.rate) g k := by
      rw [hsegs, List.append_assoc, List.isChain_append] at hchain
      exact (List.isChain_cons_cons.mp hchain.2.1).1
    obtain ⟨hlt, hprog⟩ := hfollows
    have before : ∀ c ∈ r.segments, c.start ≤ n → c.start ≤ g.start := by
      intro c hc hcn
      simp only [List.pairwise_append, List.pairwise_cons, List.mem_append, List.mem_cons, List.not_mem_nil, or_false] at hsorted
      obtain ⟨⟨-, -, hinit⟩, ⟨hbs, -⟩, -⟩ := hsorted
      simp only [hsegs, List.mem_append, List.mem_cons, List.not_mem_nil, or_false] at hc
      obtain (hc | rfl) | rfl | hc := hc
      · exact (hinit c hc g rfl).le
      · exact le_rfl
      · omega
      · have := hbs c hc
        omega
    rw [r.prog_eq h (g := g) (by simp [hsegs]) (by omega) before, ← hstart, r.prog_start h hk, hprog]
    exact Nat.add_le_add_left (segmentTime_mono _ _ (by omega)) _
  · have same : segmentAt r.segments (n + 1) = segmentAt r.segments n := by
      unfold segmentAt
      congr 2
      refine List.filter_congr fun k hk => ?_
      have : k.start ≠ n + 1 := fun e => hnew ⟨k, hk, e⟩
      exact decide_eq_decide.mpr (by omega)
    rw [Recording.prog, Recording.prog, same]
    exact Nat.add_le_add_left (segmentTime_mono _ _ (by omega)) _

end Sys2Proof.Machine

namespace Sys2Proof.Proofs
open Sys2Proof.Machine

/-- Settles O60: each segment ends where the next one starts, so the programme time runs on. -/
theorem programmeTime : Obligations.ProgrammeTime := by
  refine ⟨fun fs d k hf hq => segmentTime_eq_floor hf hq d, fun r h _ => ⟨?_, fun g hg => r.prog_start h hg, fun g n hg hle hmax => r.prog_eq h hg hle hmax,
    fun m n hmn => monotone_nat_of_le_succ (fun n => r.prog_le_succ h n) hmn⟩⟩
  obtain ⟨-, ⟨g, hg, hstart, hprog⟩, -⟩ := id h
  have first := r.prog_start h (List.mem_of_head? hg)
  rwa [hstart, hprog] at first

end Sys2Proof.Proofs

/-! The item table's commands: the lookup, what it refuses, what it reads, and the records queued, freed and marked (R2, R12-R19, R46, R48, R49, R68, R76). -/

namespace Sys2Proof.Machine

/-! ### The lookup finds the record that carries a number (R2) -/

/-- With the numbers unique, a record's number names its lane or the closed list, and its place there. -/
theorem State.NumbersUnique.parts {s : State} (h : s.NumbersUnique) :
    (∀ l, (s.lane l).numbers.Nodup) ∧ (∀ k l i, i ∈ (s.lane k).numbers → i ∈ (s.lane l).numbers → k = l) ∧
      (s.table.closed.map fun c => c.queued.item).Nodup ∧
      ∀ l i, i ∈ (s.lane l).numbers → i ∉ s.table.closed.map fun c => c.queued.item := by
  obtain ⟨hn, -⟩ := h
  rw [State.numbers, s.lanes_toList, List.flatMap_map, List.nodup_append, List.nodup_flatMap] at hn
  obtain ⟨⟨hlane, hapart⟩, hclosed, hboth⟩ := hn
  refine ⟨fun l => hlane l (List.mem_finRange l), fun k l i hk hl => ?_, hclosed, fun l i hi hc => ?_⟩
  · by_contra hne
    have : Std.Symm (Function.onFun List.Disjoint fun l => (s.lane l).numbers) := ⟨fun _ _ hd => List.Disjoint.symm hd⟩
    exact hapart.forall (List.mem_finRange k) (List.mem_finRange l) hne hk hl
  · exact hboth i (List.mem_flatMap.mpr ⟨l, List.mem_finRange l, hi⟩) i hc rfl

theorem Lane.mem_numbers_queued {x : Lane} {q : Queued} (h : q ∈ x.queue) : q.item ∈ x.numbers :=
  List.mem_append_left _ (List.mem_map_of_mem h)

theorem Lane.mem_numbers_opened {x : Lane} {o : OpenItem} (h : x.item = some o) : o.queued.item ∈ x.numbers := by
  simp [Lane.numbers, h]

theorem State.mem_numbers_lane {s : State} {l : LaneId} {i : Item} (h : i ∈ (s.lane l).numbers) : i ∈ s.numbers := by
  rw [State.numbers, s.lanes_toList, List.flatMap_map]
  exact List.mem_append_left _ (List.mem_flatMap.mpr ⟨l, List.mem_finRange l, h⟩)

/-- A number found in the queue is that of a record there, in its place. -/
theorem State.find_eq_queued {s : State} (h : s.NumbersUnique) {l : LaneId} {n : Nat} {q : Queued} (hq : (s.lane l).queue[n]? = some q) :
    s.find q.item = some (.queued l n q) := by
  obtain ⟨hlane, hapart, -, hclosed⟩ := h.parts
  have mem : q ∈ (s.lane l).queue := List.mem_of_getElem? hq
  have here := Lane.mem_numbers_queued mem
  cases hf : s.find q.item with
  | none => exact absurd (State.mem_numbers_lane here) (State.find_none hf)
  | some f =>
    cases f with
    | queued k m p =>
      obtain ⟨hp, hitem⟩ := State.find_queued hf
      obtain rfl : k = l := hapart k l q.item (hitem ▸ Lane.mem_numbers_queued (List.mem_of_getElem? hp)) here
      have places : ((s.lane k).queue.map Queued.item)[m]? = ((s.lane k).queue.map Queued.item)[n]? := by
        rw [List.getElem?_map, List.getElem?_map, hp, hq]
        exact congrArg some hitem
      have hm : m < ((s.lane k).queue.map Queued.item).length := by
        rw [List.length_map]
        exact (List.getElem?_eq_some_iff.mp hp).1
      obtain rfl : m = n := (List.getElem?_inj hm (List.nodup_append.mp (hlane k)).1).mp places
      rw [Option.some.inj (hp.symm.trans hq)]
    | opened k o =>
      obtain ⟨ho, hitem⟩ := State.find_opened hf
      obtain rfl : k = l := hapart k l q.item (hitem ▸ Lane.mem_numbers_opened ho) here
      have hboth := (List.nodup_append.mp (hlane k)).2.2 q.item (List.mem_map_of_mem mem) q.item (by simp [ho, hitem])
      exact absurd rfl hboth
    | closed c =>
      obtain ⟨hc, hitem⟩ := State.find_closed hf
      exact absurd (List.mem_map.mpr ⟨c, List.mem_of_find?_eq_some hc, hitem⟩) (hclosed l q.item here)

theorem State.find_eq_opened {s : State} (h : s.NumbersUnique) {l : LaneId} {o : OpenItem} (ho : (s.lane l).item = some o) :
    s.find o.queued.item = some (.opened l o) := by
  obtain ⟨-, hapart, -, hclosed⟩ := h.parts
  have here := Lane.mem_numbers_opened ho
  cases hf : s.find o.queued.item with
  | none => exact absurd (State.mem_numbers_lane here) (State.find_none hf)
  | some f =>
    cases f with
    | queued k m p =>
      obtain ⟨hp, hitem⟩ := State.find_queued hf
      obtain rfl : k = l := hapart k l _ (hitem ▸ Lane.mem_numbers_queued (List.mem_of_getElem? hp)) here
      have other := State.find_eq_queued h hp
      rw [hitem, hf] at other
      have hboth := (List.nodup_append.mp (h.parts.1 k)).2.2 p.item (List.mem_map_of_mem (List.mem_of_getElem? hp)) p.item (by simp [ho, hitem])
      exact absurd rfl hboth
    | opened k p =>
      obtain ⟨hp, hitem⟩ := State.find_opened hf
      obtain rfl : k = l := hapart k l _ (hitem ▸ Lane.mem_numbers_opened hp) here
      rw [Option.some.inj (hp.symm.trans ho)]
    | closed c =>
      obtain ⟨hc, hitem⟩ := State.find_closed hf
      exact absurd (List.mem_map.mpr ⟨c, List.mem_of_find?_eq_some hc, hitem⟩) (hclosed l _ here)

theorem State.find_eq_closed {s : State} (h : s.NumbersUnique) {c : ClosedRecord} (hc : c ∈ s.table.closed) :
    s.find c.queued.item = some (.closed c) := by
  obtain ⟨-, -, hnodup, hclosed⟩ := h.parts
  have here : c.queued.item ∈ s.table.closed.map fun c => c.queued.item := List.mem_map_of_mem (f := fun c => c.queued.item) hc
  cases hf : s.find c.queued.item with
  | none => exact absurd (List.mem_append_right _ here) (State.find_none hf)
  | some f =>
    cases f with
    | queued k m p =>
      obtain ⟨hp, hitem⟩ := State.find_queued hf
      exact absurd here (hitem ▸ hclosed k p.item (Lane.mem_numbers_queued (List.mem_of_getElem? hp)))
    | opened k p =>
      obtain ⟨hp, hitem⟩ := State.find_opened hf
      exact absurd here (hitem ▸ hclosed k p.queued.item (Lane.mem_numbers_opened hp))
    | closed d =>
      obtain ⟨hd, hitem⟩ := State.find_closed hf
      rw [List.inj_on_of_nodup_map hnodup (List.mem_of_find?_eq_some hd) hc hitem]

theorem State.find_eq_none {s : State} {item : Item} (h : item ∉ s.numbers) : s.find item = none := by
  cases hf : s.find item with
  | none => rfl
  | some f =>
    exfalso
    cases f with
    | queued k m p =>
      obtain ⟨hp, hitem⟩ := State.find_queued hf
      exact h (hitem ▸ State.mem_numbers_lane (Lane.mem_numbers_queued (List.mem_of_getElem? hp)))
    | opened k p =>
      obtain ⟨hp, hitem⟩ := State.find_opened hf
      exact h (hitem ▸ State.mem_numbers_lane (Lane.mem_numbers_opened hp))
    | closed d =>
      obtain ⟨hd, hitem⟩ := State.find_closed hf
      exact h (List.mem_append_right _ (List.mem_map.mpr ⟨d, List.mem_of_find?_eq_some hd, hitem⟩))

/-! ### What the commands on a record refuse -/

/-- The record that a command finds is in a state that the command does not accept (R14-R18, R46, R48, R76). -/
def RefusesState (i : Instr) (s : State) : Found → Prop
  | .queued l n _ => i ∈ [.itemEnd, .itemAbandon, .itemMark, .itemRelease] ∨ (i = .itemStart ∧ (n ≠ 0 ∨ (s.lane l).transfer ≠ .armed))
  | .opened _ _ => i ∈ [.itemWithdraw, .itemStart, .itemRelease]
  | .closed _ => i ∈ [.itemWithdraw, .itemStart, .itemEnd, .itemAbandon, .itemMark]

/-- The body of the command refuses a number that it does not find, and a record in a wrong state. -/
def TurnsAway (i : Instr) (body : List Byte → State → Reaction) : Prop :=
  ∀ ps s, (i = .itemMark → field ps 4 4 ≤ 65535) →
    (s.find (itemParam ps) = none → body ps s = refuse s .unknownItem) ∧
      ∀ f, s.find (itemParam ps) = some f → RefusesState i s f → body ps s = refuse s .wrongState

theorem itemWithdraw_turnsAway : TurnsAway .itemWithdraw itemWithdraw := by
  refine fun ps s _ => ⟨fun h => by rw [itemWithdraw, h], fun f h hr => ?_⟩
  rw [itemWithdraw, h]
  cases f with
  | queued l n q => simp [RefusesState] at hr
  | opened l o => rfl
  | closed c => rfl

theorem itemStart_turnsAway : TurnsAway .itemStart itemStart := by
  refine fun ps s _ => ⟨fun h => by rw [itemStart, h], fun f h hr => ?_⟩
  rw [itemStart, h]
  cases f with
  | queued l n q =>
    have hbad : n ≠ 0 ∨ (s.lane l).transfer ≠ .armed := by simpa [RefusesState] using hr
    exact if_pos (by simpa using hbad)
  | opened l o => rfl
  | closed c => rfl

theorem closeByCommand_turnsAway {i : Instr} (hi : i = .itemEnd ∨ i = .itemAbandon) (reason : CloseReason) : TurnsAway i (closeByCommand reason) := by
  refine fun ps s _ => ⟨fun h => by rw [closeByCommand, h], fun f h hr => ?_⟩
  rw [closeByCommand, h]
  cases f with
  | queued l n q => rfl
  | opened l o => obtain rfl | rfl := hi <;> simp [RefusesState] at hr
  | closed c => rfl

theorem itemMark_turnsAway : TurnsAway .itemMark itemMark := by
  refine fun ps s hc => ⟨fun h => ?_, fun f h hr => ?_⟩
  · rw [itemMark, if_neg (Nat.not_lt.mpr (hc rfl)), h]
  · rw [itemMark, if_neg (Nat.not_lt.mpr (hc rfl)), h]
    cases f with
    | queued l n q => rfl
    | opened l o => simp [RefusesState] at hr
    | closed c => rfl

theorem itemRead_turnsAway : TurnsAway .itemRead itemRead := by
  refine fun ps s _ => ⟨fun h => by rw [itemRead, h], fun f h hr => ?_⟩
  cases f <;> simp [RefusesState] at hr

theorem itemRelease_turnsAway : TurnsAway .itemRelease itemRelease := by
  refine fun ps s _ => ⟨fun h => by rw [itemRelease, h], fun f h hr => ?_⟩
  rw [itemRelease, h]
  cases f with
  | queued l n q => rfl
  | opened l o => rfl
  | closed c => simp [RefusesState] at hr

theorem exec_item_row {row : Instr × Byte × Nat} (h : row ∈ commandTable)
    (hl : row.1 ∈ [.itemWithdraw, .itemStart, .itemEnd, .itemAbandon, .itemMark, .itemRead, .itemRelease]) :
    ∃ body, (∀ s, exec row.1 s = command s row.2.1 (counted row.2.2 body)) ∧ TurnsAway row.1 body := by
  obtain ⟨i, code, n⟩ := row
  simp only [List.mem_cons, List.not_mem_nil, or_false] at hl
  obtain rfl | rfl | rfl | rfl | rfl | rfl | rfl := hl
  · obtain ⟨rfl, rfl⟩ : code = 0x31#8 ∧ n = 4 := by simpa [commandTable] using h
    exact ⟨itemWithdraw, fun _ => rfl, itemWithdraw_turnsAway⟩
  · obtain ⟨rfl, rfl⟩ : code = 0x32#8 ∧ n = 4 := by simpa [commandTable] using h
    exact ⟨itemStart, fun _ => rfl, itemStart_turnsAway⟩
  · obtain ⟨rfl, rfl⟩ : code = 0x33#8 ∧ n = 4 := by simpa [commandTable] using h
    exact ⟨closeByCommand .command, fun _ => rfl, closeByCommand_turnsAway (.inl rfl) _⟩
  · obtain ⟨rfl, rfl⟩ : code = 0x34#8 ∧ n = 4 := by simpa [commandTable] using h
    exact ⟨closeByCommand .abandoned, fun _ => rfl, closeByCommand_turnsAway (.inr rfl) _⟩
  · obtain ⟨rfl, rfl⟩ : code = 0x35#8 ∧ n = 8 := by simpa [commandTable] using h
    exact ⟨itemMark, fun _ => rfl, itemMark_turnsAway⟩
  · obtain ⟨rfl, rfl⟩ : code = 0x36#8 ∧ n = 4 := by simpa [commandTable] using h
    exact ⟨itemRead, fun _ => rfl, itemRead_turnsAway⟩
  · obtain ⟨rfl, rfl⟩ : code = 0x37#8 ∧ n = 4 := by simpa [commandTable] using h
    exact ⟨itemRelease, fun _ => rfl, itemRelease_turnsAway⟩

/-! ### Record bytes (R178) -/

theorem Mark.channelsCode_eq (m : Mark) : m.channelsCode = (if m.chA = true then 1 else 0) + if m.chB = true then 2 else 0 := by
  unfold Mark.channelsCode
  cases m.chA <;> cases m.chB <;> rfl

/-- The queueing part of an item record behind its state byte (R178). -/
theorem Queued.bytes_eq (q : Queued) (l : LaneId) (state : Byte) : state :: q.bytes l = [state] ++ be 4 q.item.toNat ++ be 1 l.val ++
    be 1 q.startRule.code ++ be 1 q.ends.code ++ be 5 (if q.ends.length = true then q.target else 0) ++ be 2 q.preroll ++
    be 1 q.label.length ++ q.label := by
  simp only [Queued.bytes, List.append_assoc, List.cons_append, List.nil_append]

/-- The recording part of an item record, the digest with its final exclusive-or (R122, R178). -/
theorem Recording.bytes_eq (r : Recording) (reason : Nat) : r.bytes reason = be 2 r.deck.toNat ++ be 1 r.rate.val ++ be 1 r.channels.count ++
    be 6 r.start.toNat ++ be 5 r.length ++ be 6 r.programme ++ be 2 r.droppedMarks ++ be 3 r.peakA ++ be 3 r.peakB ++
    be 4 r.concealed ++ be 4 r.lost ++ be 4 r.overloads ++ be 4 r.blocks ++ be 4 (r.crc ^^^ 0xFFFFFFFF#32).toNat ++ be 1 r.flags.code ++
    be 1 reason ++ be 1 r.segments.length ++
    r.segments.flatMap (fun g => be 5 g.start ++ be 2 g.ratio.p ++ be 2 g.ratio.q ++ be 6 g.programme) ++ be 1 r.marks.length ++
    r.marks.flatMap fun m => be 1 m.kind.code ++ be 5 m.offset ++ be 6 m.programme ++ be 5 m.extent ++
      be 1 ((if m.chA = true then 1 else 0) + if m.chB = true then 2 else 0) := by
  have marks : Mark.bytes = fun m => be 1 m.kind.code ++ be 5 m.offset ++ be 6 m.programme ++ be 5 m.extent ++
      be 1 ((if m.chA = true then 1 else 0) + if m.chB = true then 2 else 0) :=
    funext fun m => by rw [Mark.bytes, Mark.channelsCode_eq]
  have segments : Segment.bytes = fun g => be 5 g.start ++ be 2 g.ratio.p ++ be 2 g.ratio.q ++ be 6 g.programme := rfl
  unfold Recording.bytes
  rw [rateByte_eq_be, digestOf_eq_xor, marks, segments]

/-- An item field present or absent in TABLE_STATUS (R19; log 12). -/
theorem optional_item (item : Option OpenItem) : optional 4 (item.map fun o => be 4 o.queued.item.toNat) = match item with
    | some o => 1 :: be 4 o.queued.item.toNat
    | none => [0, 0, 0, 0, 0] := by
  cases item <;> rfl

/-! ### ITEM_QUEUE -/

theorem StartRule.ofCode_spec (n : Nat) : (StartRule.ofCode n = none ∧ 4 < n) ∨ ∃ r, StartRule.ofCode n = some r ∧ r.code = n ∧ n ≤ 4 := by
  match n with
  | 0 => exact .inr ⟨_, rfl, rfl, by decide⟩
  | 1 => exact .inr ⟨_, rfl, rfl, by decide⟩
  | 2 => exact .inr ⟨_, rfl, rfl, by decide⟩
  | 3 => exact .inr ⟨_, rfl, rfl, by decide⟩
  | 4 => exact .inr ⟨_, rfl, rfl, by decide⟩
  | n + 5 => exact .inl ⟨rfl, by omega⟩

theorem EndConditions.ofCode_code {n : Nat} (h : n < 16) : ∃ e, EndConditions.ofCode n = some e ∧ e.code = n ∧ e.length = n.testBit 2 := by
  refine ⟨_, if_pos h, ?_, rfl⟩
  revert n
  decide

/-- Well-formed parameters of ITEM_QUEUE are what they spell (R13). -/
theorem queueParams_of_fields {ps : List Byte} (h : itemQueueFields ps) : ∃ p, queueParams ps = some p ∧ p.item = BitVec.ofNat 32 (field ps 1 4) ∧
    p.startRule.code = field ps 5 1 ∧ p.ends.code = field ps 6 1 ∧ p.target = field ps 7 5 ∧ p.preroll = field ps 12 2 ∧
    p.label = ps.drop 15 := by
  obtain ⟨hitem, hstart, hends, htarget, hpre, hlabel⟩ := h
  obtain ⟨-, hbad⟩ | ⟨r, hr, hrcode, -⟩ := StartRule.ofCode_spec (field ps 5 1)
  · omega
  · obtain ⟨e, he, hecode, helen⟩ := EndConditions.ofCode_code hends
    have goodTarget : (if e.length then field ps 7 5 != 0 else field ps 7 5 == 0) = true := by
      rw [helen]
      cases hb : (field ps 6 1).testBit 2 <;> simp_all
    refine ⟨⟨BitVec.ofNat 32 (field ps 1 4), r, e, field ps 7 5, field ps 12 2, ps.drop 15⟩, ?_, rfl, hrcode, hecode, rfl, rfl, rfl⟩
    simp only [queueParams, hr, he]
    exact if_pos (by simp [hitem, goodTarget, hpre, hlabel])

theorem queueParams_of_bad {ps : List Byte} (h : ¬itemQueueFields ps) : queueParams ps = none := by
  by_contra hsome
  obtain ⟨p, hp⟩ := Option.ne_none_iff_exists'.mp hsome
  refine h ?_
  simp only [queueParams] at hp
  split at hp
  case h_1 r e hr he =>
    rw [Option.ite_none_right_eq_some] at hp
    obtain ⟨hc, -⟩ := hp
    simp only [Bool.and_eq_true, decide_eq_true_eq, ne_eq] at hc
    obtain ⟨⟨⟨hitem, htarget⟩, hpre⟩, hlabel⟩ := hc
    have hstart : field ps 5 1 ≤ 4 := by
      obtain ⟨hn, -⟩ | ⟨-, -, -, hle⟩ := StartRule.ofCode_spec (field ps 5 1)
      · exact nomatch hn.symm.trans hr
      · exact hle
    have hends : field ps 6 1 < 16 := by
      by_contra hn
      rw [EndConditions.ofCode, if_neg hn] at he
      cases he
    obtain ⟨e', he', -, helen⟩ := EndConditions.ofCode_code hends
    obtain rfl : e' = e := Option.some.inj (he'.symm.trans he)
    refine ⟨hitem, hstart, hends, ?_, hpre, hlabel⟩
    rw [helen] at htarget
    cases hb : (field ps 6 1).testBit 2 <;> simp_all
  case h_2 => cases hp

/-- The head of a queue that was empty arms a lane with an empty open slot (R11). -/
theorem Lane.queue_arms (x : Lane) (q : Queued) :
    (if x.queue.isEmpty then ({ x with queue := x.queue ++ [q] } : Lane).armIfWaiting else { x with queue := x.queue ++ [q] }) =
      { x with
        queue := x.queue ++ [q]
        baseline := if x.queue = [] ∧ x.item = none then some ⟨x.cue.level, x.detector.state, x.port.motion⟩ else x.baseline } := by
  unfold Lane.armIfWaiting
  cases hq : x.queue <;> cases hi : x.item <;> simp [Lane.arm]

/-- A withdrawn head with an empty open slot arms the follower (R11, R15). -/
theorem Lane.withdraw_arms (x : Lane) (n : Nat) (hn : n < x.queue.length) :
    (if n = 0 then ({ x with queue := x.queue.eraseIdx n } : Lane).armIfWaiting else { x with queue := x.queue.eraseIdx n }) =
      { x with
        queue := x.queue.eraseIdx n
        baseline := if n = 0 ∧ x.item = none ∧ 2 ≤ x.queue.length then
          some ⟨x.cue.level, x.detector.state, x.port.motion⟩ else x.baseline } := by
  cases n with
  | succ n => simp
  | zero =>
    unfold Lane.armIfWaiting
    cases hi : x.item with
    | some o => simp
    | none =>
      match hq : x.queue with
      | [] => simp [hq] at hn
      | [q] => simp
      | q :: p :: rest => simp [Lane.arm]

theorem State.offeredRecord_none {s : State} (h : ∀ r ∈ s.table.pool, s.placeHeld r = true) : s.offeredRecord = none :=
  List.find?_eq_none.mpr fun r hr => by simp [h r hr]

theorem State.offeredRecord_some {s : State} {r : Nat} (hr : r ∈ s.table.pool) (hp : s.placeHeld r = false) :
    ∃ k, s.offeredRecord = some k ∧ k ∈ s.table.pool ∧ s.placeHeld k = false := by
  obtain ⟨k, hk⟩ := Option.isSome_iff_exists.mp (List.find?_isSome.mpr ⟨r, hr, by simp [hp]⟩ : (s.table.pool.find? fun r => !s.placeHeld r).isSome = true)
  exact ⟨k, hk, List.mem_of_find?_eq_some hk, by simpa using List.find?_some hk⟩

/-! ### ITEM_MARK -/

theorem OpenItem.raiseMark_stored {o : OpenItem} {m : Mark} {marks : List Mark} (hroom : o.record.marks.length < 32)
    (hinsert : insertMark m o.record.marks = marks) :
    o.raiseMark m = ({ o with record := { o.record with marks := marks } }, .stored m.serial) := by
  rw [← hinsert]
  exact if_pos hroom

theorem OpenItem.raiseMark_dropped {o : OpenItem} (hfull : 32 ≤ o.record.marks.length) (m : Mark) :
    o.raiseMark m = ({ o with record := { o.record with
      droppedMarks := min 65535 (o.record.droppedMarks + 1)
      flags := { o.record.flags with marksTruncated := true } } }, .dropped m) := by
  rw [OpenItem.raiseMark, sat_eq]
  exact if_neg (Nat.not_lt.mpr hfull)

/-- A mark under a serial of its own stands behind those before it. -/
theorem findIdx_serial {before behind : List Mark} {m : Mark} {k : Nat} (hbefore : ∀ x ∈ before, x.serial ≠ k) (hm : m.serial = k) :
    (before ++ m :: behind).findIdx (fun x => x.serial == k) = before.length := by
  induction before with
  | nil => simp [List.findIdx_cons, hm]
  | cons x xs ih =>
    have hx : (x.serial == k) = false := by simpa using hbefore x (by simp)
    rw [List.cons_append, List.findIdx_cons, hx, ih fun y hy => hbefore y (by simp [hy])]
    rfl

section
variable {ps : List Byte} {s : State} {l : LaneId} {o p : OpenItem}

/-- What ITEM_MARK does with a mark that is stored (R76). -/
theorem itemMark_stored {serial place : Nat} (hcode : field ps 4 4 ≤ 65535) (hf : s.find (itemParam ps) = some (.opened l o))
    (hm : o.raiseMark (o.record.newMark .operator o.record.length (field ps 4 4) false false) = (p, .stored serial))
    (hplace : p.record.marks.findIdx (fun x => x.serial == serial) = place) :
    itemMark ps s = accept (s.mapLane l fun x => { x with item := some p }) (be 5 o.record.length ++ be 6 (o.record.prog o.record.length) ++ [0] ++
      1 :: be 1 place ++ [0, 0, 0]) := by
  simp only [itemMark, if_neg (Nat.not_lt.mpr hcode), hf, hm, hplace]
  rfl

/-- What ITEM_MARK does with a mark that is dropped (R76). -/
theorem itemMark_dropped {m : Mark} (hcode : field ps 4 4 ≤ 65535) (hf : s.find (itemParam ps) = some (.opened l o))
    (hm : o.raiseMark (o.record.newMark .operator o.record.length (field ps 4 4) false false) = (p, .dropped m)) :
    itemMark ps s = accept (s.mapLane l fun x => { x with item := some p }) (be 5 o.record.length ++ be 6 (o.record.prog o.record.length) ++ [1] ++
      [0, 0] ++ 1 :: be 2 p.record.droppedMarks) := by
  simp only [itemMark, if_neg (Nat.not_lt.mpr hcode), hf, hm]
  rfl

end

/-! ### A command in its queue -/

/-- The command queue is no part of a close: it may stand otherwise. -/
theorem State.ItemCloses.withCmd {s t : State} {l : LaneId} {o : OpenItem} {reason : CloseReason} (h : s.ItemCloses t l o reason) (c : CommandUnit) :
    ({ s with cmd := c } : State).ItemCloses { t with cmd := c } l o reason := by
  obtain ⟨hlane, hpool, hclosed, hblock, hwaiting, hevents, haside, -, ha, hb⟩ := h
  exact ⟨hlane, hpool, hclosed, hblock, hwaiting, hevents, haside, rfl, ha, hb⟩

/-- A close within a command: what the close makes of the state, the command answered (R48, R162). -/
theorem State.closeItem_answered {s : State} {l : LaneId} {o : OpenItem} (ho : (s.lane l).item = some o) (reason : CloseReason) (c : Command)
    (result : List Byte) : ∃ t, s.ItemCloses t l o reason ∧
      (accept (s.takeCommand.closeItem l reason) result).reply c = t.answered c .ok result := by
  have closes : s.takeCommand.ItemCloses (s.takeCommand.closeItem l reason) l o reason := State.closeItem_itemCloses _ l reason ho
  obtain ⟨-, -, -, -, -, -, -, hcmd, -⟩ := id closes
  refine ⟨{ s.takeCommand.closeItem l reason with cmd := s.cmd }, closes.withCmd s.cmd, ?_⟩
  unfold Reaction.reply accept State.answered
  dsimp only
  rw [hcmd]
  rfl

end Sys2Proof.Machine

namespace Sys2Proof.Proofs
open Sys2Proof.Machine

/-- Settles O32, by what each of the seven commands makes of what it finds. -/
theorem itemNumberRefusals : Obligations.ItemNumberRefusals := by
  intro row hrow hl s c hr hc hn hcode
  obtain ⟨body, hx, haway⟩ := exec_item_row hrow hl
  obtain ⟨hnone, hwrong⟩ := haway c.params s.takeCommand hcode
  have answer {st : Status} (h : body c.params s.takeCommand = refuse s.takeCommand st) : exec row.1 s = .next (s.answered c st) := by
    rw [hx, command_refused hr hc ((counted_of_length hn _ _).trans h)]
  have wrong {i : Item} {f : Found} (hi : i = itemParam c.params) (hf : s.find i = some f) (h : RefusesState row.1 s f) :
      exec row.1 s = .next (s.answered c .wrongState) := answer (hwrong f (hi ▸ hf) (by cases f <;> exact h))
  refine ⟨fun hno => answer (hnone (State.find_eq_none hno)), fun hu l q hq hi hrow => ?_, fun hu l q hq hi hstart hbad => ?_,
    fun hu l o ho hi hrow => wrong hi (State.find_eq_opened hu ho) hrow, fun hu r hr hi hrow => wrong hi (State.find_eq_closed hu hr) hrow⟩
  · obtain ⟨n, hn⟩ := List.mem_iff_getElem?.mp hq
    exact wrong hi (State.find_eq_queued hu hn) (.inl hrow)
  · obtain ⟨n, hn⟩ := List.mem_iff_getElem?.mp hq
    refine wrong hi (State.find_eq_queued hu hn) (.inr ⟨hstart, ?_⟩)
    by_contra hgood
    obtain ⟨rfl, harmed⟩ := not_or.mp hgood |>.imp not_not.mp not_not.mp
    obtain hhead | hitem := hbad
    · exact hhead (List.head?_eq_getElem?.trans hn)
    · exact hitem (Lane.transfer_armed harmed)

/-- Settles O36: the record found is the one that carries the number, and its bytes are those of its state. -/
theorem tableReads : Obligations.TableReads := by
  intro s
  dsimp only
  refine ⟨fun tag ps hr hn hu => ?_, fun tag hr => ?_⟩
  · have reads {i : Item} {f : Found} (hi : i = itemParam ps) (hf : s.find i = some f) :
        exec .itemRead s = .next (s.answered ⟨tag, 0x36, ps⟩ .ok f.bytes) := by
      have run : exec .itemRead s = .next ((itemRead ps s.takeCommand).reply ⟨tag, 0x36, ps⟩) := command_counted_of_ready hr hn itemRead
      have hfound : s.takeCommand.find (itemParam ps) = some f := hi ▸ hf
      rw [run, itemRead, hfound]
      rfl
    refine ⟨fun l q hq hi => ?_, fun l o ho hi => ?_, fun c hc hi => ?_⟩
    · obtain ⟨n, hn⟩ := List.mem_iff_getElem?.mp hq
      exact (reads hi (State.find_eq_queued hu hn)).trans (by rw [Found.bytes, Queued.bytes_eq])
    · exact (reads hi (State.find_eq_opened hu ho)).trans (by rw [Found.bytes, ← List.cons_append, Queued.bytes_eq, Recording.bytes_eq])
    · exact (reads hi (State.find_eq_closed hu hc)).trans (by rw [Found.bytes, ← List.cons_append, Queued.bytes_eq, Recording.bytes_eq])
  · have run : exec .tableStatus s = .next ((tableStatus [] s.takeCommand).reply ⟨tag, 0x38, []⟩) :=
      command_counted_of_ready (n := 0) hr rfl tableStatus
    refine run.trans (congrArg (fun bs => Host.Outcome.next (State.answered s ⟨tag, 0x38, []⟩ .ok bs)) ?_)
    show s.tableBytes = _
    unfold State.tableBytes Lane.tableBytes
    simp only [optional_item]
    rfl

/-- Settles O31: the record found leaves its queue, or the closed list, and joins the pool. -/
theorem recordsFreed : Obligations.RecordsFreed := by
  refine ⟨fun s tag ps l n q hr hn hu hq hi => ?_, fun s tag ps before c behind hr hn hu hclosed hi => ?_⟩
  · have run : exec .itemWithdraw s = .next ((itemWithdraw ps s.takeCommand).reply ⟨tag, 0x31, ps⟩) :=
      command_counted_of_ready hr hn itemWithdraw
    have hf : s.takeCommand.find (itemParam ps) = some (.queued l n q) :=
      (congrArg s.find hi.symm).trans (State.find_eq_queued hu hq)
    dsimp only
    rw [run, itemWithdraw, hf, ← Lane.withdraw_arms _ n (List.getElem?_eq_some_iff.mp hq).1]
    rfl
  · have run : exec .itemRelease s = .next ((itemRelease ps s.takeCommand).reply ⟨tag, 0x37, ps⟩) :=
      command_counted_of_ready hr hn itemRelease
    have hmem : c ∈ s.table.closed := by simp [hclosed]
    have hf : s.takeCommand.find (itemParam ps) = some (.closed c) :=
      (congrArg s.find hi.symm).trans (State.find_eq_closed hu hmem)
    have apart : ∀ d ∈ before, ¬(d.queued.item == c.queued.item) = true := by
      obtain ⟨-, -, hnodup, -⟩ := hu.parts
      rw [hclosed, List.map_append, List.nodup_append] at hnodup
      intro d hd he
      exact hnodup.2.2 _ (List.mem_map_of_mem hd) c.queued.item (by simp) (beq_iff_eq.mp he)
    have erased : s.table.closed.eraseP (fun x => x.queued.item == c.queued.item) = before ++ behind := by
      rw [hclosed, List.eraseP_append_right _ apart, List.eraseP_cons_of_pos (by simp)]
    rw [run, itemRelease, hf, ← erased]
    rfl

/-- Settles O30, by the order of the tests. -/
theorem itemQueue : Obligations.ItemQueue := by
  intro s tag ps l hr hle hn hl
  have run : exec .itemQueue s = .next ((Machine.itemQueue l ps s.takeCommand).reply ⟨tag, 0x30, ps⟩) := by
    have body : itemQueueBody ps s.takeCommand = Machine.itemQueue l ps s.takeCommand := by
      rw [itemQueueBody, if_pos (by simp [hle, ← hn]), onLane_of_field hl]
    exact (command_of_code hr rfl itemQueueBody).trans (by rw [body])
  have on : s.takeCommand.lane l = s.lane l := rfl
  dsimp only
  refine ⟨fun he => ?_, fun he hbad => ?_, fun he hgood hdup => ?_, fun he hgood hnew hfull => ?_, fun he hgood hnew r hrec hfree => ?_⟩
  · rw [run, Machine.itemQueue, on, he]
    rfl
  · rw [run, Machine.itemQueue, on, he, queueParams_of_bad hbad]
    rfl
  · obtain ⟨p, hp, hitem, -⟩ := queueParams_of_fields hgood
    have found : (s.takeCommand.find p.item).isSome = true := by
      rw [Option.isSome_iff_ne_none]
      exact fun h => State.find_none h (hitem ▸ hdup)
    rw [run, Machine.itemQueue, on, he, hp]
    simp only [found, Bool.not_true, Bool.false_eq_true, if_false, if_true]
    rfl
  · obtain ⟨p, hp, hitem, -⟩ := queueParams_of_fields hgood
    have new : s.takeCommand.find p.item = none := State.find_eq_none (s := s.takeCommand) (hitem ▸ hnew)
    have offered : s.takeCommand.offeredRecord = none := State.offeredRecord_none (s := s.takeCommand) hfull
    rw [run, Machine.itemQueue, on, he, hp]
    simp only [new, offered, Bool.not_true, Bool.false_eq_true, if_false, Option.isSome_none]
    rfl
  · obtain ⟨p, hp, hitem, hstart, hends, htarget, hpre, hlabel⟩ := queueParams_of_fields hgood
    have new : s.takeCommand.find p.item = none := State.find_eq_none (s := s.takeCommand) (hitem ▸ hnew)
    obtain ⟨k, hoffered, hk, hplace⟩ := State.offeredRecord_some (s := s.takeCommand) hrec hfree
    refine ⟨fun hfull => ?_, fun hroom => ⟨⟨k, p.item, p.startRule, p.ends, p.target, p.preroll, p.label⟩, hk, hplace, hitem, hstart, hends, htarget,
      hpre, hlabel, ?_⟩⟩
    · have full : Config.queuePlaces ≤ (s.lane l).queue.length := hfull
      rw [run, Machine.itemQueue, on, he, hp]
      simp only [new, hoffered, full, Bool.not_true, Bool.false_eq_true, if_false, Option.isSome_none, if_true]
      rfl
    · have room : ¬Config.queuePlaces ≤ (s.lane l).queue.length := Nat.not_le.mpr hroom
      rw [run, Machine.itemQueue, on, he, hp]
      simp only [new, hoffered, room, Bool.not_true, Bool.false_eq_true, if_false, Option.isSome_none, Lane.queue_arms]
      rfl

/-- Settles O35, by the room in the list. -/
theorem itemMark : Obligations.ItemMark := by
  intro s tag ps hr hn
  have run : exec .itemMark s = .next ((Machine.itemMark ps s.takeCommand).reply ⟨tag, 0x35, ps⟩) := command_counted_of_ready hr hn Machine.itemMark
  refine ⟨fun hbad => ?_, fun l o hcode hu ho hi hserial => ?_⟩
  · rw [run, Machine.itemMark, if_pos hbad]
    rfl
  · have hf : s.takeCommand.find (itemParam ps) = some (.opened l o) :=
      (congrArg s.find hi.symm).trans (State.find_eq_opened hu ho)
    refine ⟨fun hroom => ?_, fun hfull => ?_⟩
    · obtain ⟨before, behind, hsplit, hinsert, hbefore, hbehind⟩ :=
        insertMark_split (o.record.newMark .operator o.record.length (field ps 4 4) false false) o.record.marks
      have place : (before ++ o.record.newMark .operator o.record.length (field ps 4 4) false false :: behind).findIdx
          (fun x => x.serial == o.record.marks.length) = before.length :=
        findIdx_serial (fun m hm => (hserial m (by simp [hsplit, hm])).ne) rfl
      refine ⟨before, behind, hsplit, hbefore, hbehind, ?_⟩
      rw [run, itemMark_stored hcode hf (OpenItem.raiseMark_stored hroom hinsert) place]
      rfl
    · rw [run, itemMark_dropped hcode hf (OpenItem.raiseMark_dropped hfull _)]
      rfl

/-- Settles O34: both commands close the item that they find. -/
theorem itemEndAbandon : Obligations.ItemEndAbandon := by
  intro s tag ps l o hn hu ho hi
  have closes (reason : CloseReason) (c : Command) (hparams : c.params = ps) : ∃ t, s.ItemCloses t l o reason ∧
      (closeByCommand reason ps s.takeCommand).reply c = t.answered c .ok (be 5 o.record.length ++ be 6 o.record.programme) := by
    have hf : s.takeCommand.find (itemParam ps) = some (.opened l o) :=
      (congrArg s.find hi.symm).trans (State.find_eq_opened hu ho)
    rw [closeByCommand, hf]
    exact State.closeItem_answered ho reason c _
  refine ⟨fun hr => ?_, fun hr => ?_⟩
  · obtain ⟨t, ht, e⟩ := closes .command ⟨tag, 0x33, ps⟩ rfl
    exact ⟨t, ht, (command_counted_of_ready hr hn (closeByCommand .command)).trans (congrArg Host.Outcome.next e)⟩
  · obtain ⟨t, ht, e⟩ := closes .abandoned ⟨tag, 0x34, ps⟩ rfl
    exact ⟨t, ht, (command_counted_of_ready hr hn (closeByCommand .abandoned)).trans (congrArg Host.Outcome.next e)⟩

end Sys2Proof.Proofs

/-! ITEM_START (R32, R46). -/

namespace Sys2Proof.Machine

/-! ### The command queue is no part of an opening -/

section
variable {s t : State} {l : LaneId}

theorem State.ItemTakes.withCmd {f : Frame} {o p : OpenItem} (h : s.ItemTakes t l f o p) (c : CommandUnit) :
    ({ s with cmd := c } : State).ItemTakes { t with cmd := c } l f o p := by
  obtain ⟨ht, hp, hr, hplaced, hlost, hevents, hmarks⟩ := h
  refine ⟨congrArg (fun u : State => { u with cmd := c }) ht, hp, hr, hplaced, hlost, hevents.trans ?_, hmarks⟩
  rw [apply_ite State.events, apply_ite State.events]
  rfl

theorem State.ItemPushes.withCmd {fs : List Frame} {o p : OpenItem} (h : State.ItemPushes l fs s o t p) (c : CommandUnit) :
    State.ItemPushes l fs { s with cmd := c } o { t with cmd := c } p := by
  induction fs generalizing s o with
  | nil =>
    obtain ⟨rfl, rfl⟩ := h
    exact ⟨rfl, rfl⟩
  | cons f fs ih =>
    obtain ⟨u, m, hu, hrest⟩ := h
    exact ⟨{ u with cmd := c }, m, hu.withCmd c, ih hrest⟩

theorem State.ItemOpensWith.withCmd {q : Queued} {frames : List Frame} (h : s.ItemOpensWith t l q frames) (c : CommandUnit) :
    ({ s with cmd := c } : State).ItemOpensWith { t with cmd := c } l q frames := by
  obtain ⟨hgives, v, p, hpushes, ht⟩ := h
  exact ⟨hgives, { v with cmd := c }, p, hpushes.withCmd c, congrArg (fun u : State => { u with cmd := c }) ht⟩

theorem State.HeadStarts.withCmd {q : Queued} {frames : List Frame} (h : s.HeadStarts t l q frames) (c : CommandUnit) :
    ({ s with cmd := c } : State).HeadStarts { t with cmd := c } l q frames := by
  obtain ⟨hopens, hcloses⟩ := h
  refine ⟨fun hn => (hopens hn).withCmd c, fun hy => ?_⟩
  obtain ⟨u, p, hu, hp, ht⟩ := hcloses hy
  exact ⟨{ u with cmd := c }, p, hu.withCmd c, hp, ht.withCmd c⟩

end

theorem State.ItemPushes.cmd {l : LaneId} {fs : List Frame} {s t : State} {o p : OpenItem} (h : State.ItemPushes l fs s o t p) : t.cmd = s.cmd := by
  induction fs generalizing s o with
  | nil => exact h.1 ▸ rfl
  | cons f fs ih =>
    obtain ⟨u, m, ⟨hu, -⟩, hrest⟩ := h
    have hcmd : u.cmd = s.cmd := (congrArg State.cmd hu :)
    exact (ih hrest).trans hcmd

theorem State.ItemOpensWith.cmd {s t : State} {l : LaneId} {q : Queued} {frames : List Frame} (h : s.ItemOpensWith t l q frames) : t.cmd = s.cmd := by
  obtain ⟨-, v, p, hpushes, ht⟩ := h
  exact (congrArg State.cmd ht).trans hpushes.cmd

theorem State.HeadStarts.cmd {s t : State} {l : LaneId} {q : Queued} {frames : List Frame} (h : s.HeadStarts t l q frames) : t.cmd = s.cmd := by
  obtain ⟨hopens, hcloses⟩ := h
  by_cases hy : q.ends.length = true ∧ q.target ≤ (s.lane l).prerollTime frames.length
  · obtain ⟨u, p, hu, -, -, -, -, -, -, -, -, hcmd, -⟩ := hcloses hy
    exact hcmd.trans hu.cmd
  · exact (hopens hy).cmd

/-- A state answered that differs in nothing but a command queue whose front has been taken. -/
theorem reply_answered {s t : State} (h : t.cmd = s.takeCommand.cmd) (c : Command) (result : List Byte) :
    (accept t result).reply c = ({ t with cmd := s.cmd } : State).answered c .ok result := by
  unfold Reaction.reply accept State.answered
  dsimp only
  rw [h]
  rfl

/-- What ITEM_START does with the head of an ARMED lane (R46). -/
theorem itemStart_head {ps : List Byte} {s : State} {l : LaneId} {q : Queued} (hf : s.find (itemParam ps) = some (.queued l 0 q))
    (ha : (s.lane l).transfer = .armed) : itemStart ps s =
      if (s.lane l).port.lock ≠ .locked then refuse s .notLocked
      else accept (s.openNow l) (be 1 l.val ++ be 6 ((s.lane l).port.counter - BitVec.ofNat 48 ((s.lane l).preroll q)).toNat ++
        be 2 ((s.lane l).preroll q)) := by
  have taken : (prerollOf q (s.lane l).eligibleFrames).length = (s.lane l).preroll q := by
    simp only [prerollOf, lastN, Lane.preroll, List.length_drop]
    omega
  simp only [itemStart, hf, ha, taken, ne_eq, not_true_eq_false, decide_false, Bool.false_or, bne_self_eq_false, Bool.false_eq_true, if_false]

theorem Lane.transfer_of_head {x : Lane} {q : Queued} (he : x.profile.enabled = true) (hi : x.item = none) (hq : x.queue.head? = some q) :
    x.transfer = .armed := by
  unfold Lane.transfer
  cases hqueue : x.queue with
  | nil => simp [hqueue] at hq
  | cons p ps => simp [he, hi]

end Sys2Proof.Machine

namespace Sys2Proof.Proofs
open Sys2Proof.Machine

/-- Settles O33: what the command does is the opening of the head (R32). -/
theorem itemStart : Obligations.ItemStart := by
  intro s tag ps l q hr hn hu hhead hitem he hi
  obtain ⟨rest, hqueue⟩ : ∃ rest, (s.lane l).queue = q :: rest := List.head?_eq_some_iff.mp hhead
  have hf : s.takeCommand.find (itemParam ps) = some (.queued l 0 q) :=
    (congrArg s.find hitem.symm).trans (State.find_eq_queued hu (by rw [hqueue]; rfl))
  have armed : (s.takeCommand.lane l).transfer = .armed := Lane.transfer_of_head he hi hhead
  have run : exec .itemStart s = .next ((Machine.itemStart ps s.takeCommand).reply ⟨tag, 0x32, ps⟩) := command_counted_of_ready hr hn Machine.itemStart
  rw [itemStart_head hf armed] at run
  let frames := (s.lane l).eligibleFrames.drop ((s.lane l).eligibleFrames.length - q.preroll)
  have starts : s.takeCommand.HeadStarts (s.takeCommand.openNow l) l q frames := State.openHead_starts s.takeCommand l _ hqueue hi
  let t : State := { s.takeCommand.openNow l with cmd := s.cmd }
  have ht : s.HeadStarts t l q frames := starts.withCmd s.cmd
  have count : frames.length = (s.lane l).preroll q := by
    simp only [frames, Lane.preroll, List.length_drop]
    omega
  have done (hlock : (s.lane l).port.lock = .locked) : exec .itemStart s = .next (t.answered ⟨tag, 0x32, ps⟩ .ok
      (be 1 l.val ++ be 6 ((s.lane l).port.counter - BitVec.ofNat 48 ((s.lane l).preroll q)).toNat ++ be 2 ((s.lane l).preroll q))) := by
    rw [if_neg (by exact not_not.mpr hlock)] at run
    exact run.trans (congrArg Host.Outcome.next (reply_answered starts.cmd _ _))
  refine ⟨fun hlock => ?_, fun hlock hbelow => ?_, fun hlock hlen hreached => ⟨?_, ?_⟩⟩
  · rw [if_pos (by exact hlock)] at run
    exact run
  · refine ⟨t, ht.1 fun hr => ?_, done hlock⟩
    obtain ⟨hlen, hge⟩ := hr
    exact absurd (hbelow hlen) (Nat.not_lt.mpr (count ▸ hge))
  · obtain ⟨u, p, hopens, hp, hcloses⟩ := ht.2 ⟨hlen, count.symm ▸ hreached⟩
    exact ⟨t, u, p, hopens, hp, hcloses, done hlock⟩
  · obtain ⟨u, p, hopens, hp, hcloses⟩ := ht.2 ⟨hlen, count.symm ▸ hreached⟩
    obtain ⟨⟨htable, hrest, -, -, hopened, o, ho, hqueued, -, -, -, hlength, -⟩, -⟩ := hopens
    obtain rfl : o = p := Option.some.inj (ho.symm.trans hp)
    obtain ⟨hlane, -, hclosed, -, -, hevents, -⟩ := hcloses
    have flags (f : Flag) : (t.answered ⟨tag, 0x32, ps⟩ .ok (be 1 l.val ++ be 6 ((s.lane l).port.counter -
        BitVec.ofNat 48 ((s.lane l).preroll q)).toNat ++ be 2 ((s.lane l).preroll q))).events.isSet f =
          (u.raise (.lane l .itemClosed) o.queued.item).events.isSet f := congrArg (EventUnit.isSet · f) hevents
    refine ⟨_, _, done hlock, congrArg Lane.item hlane, (congrArg Lane.queue hlane).trans hrest, hclosed.trans (by rw [htable]), hqueued, rfl, rfl,
      hlength.trans count, ?_, ?_⟩
    · rw [flags, State.isSet_raise, hopened]
      rfl
    · rw [flags, State.isSet_raise]
      simp

end Sys2Proof.Proofs

/-! The route and monitor commands and the output of a monitor port (R133, R134, R148-R154). -/

namespace Sys2Proof.Machine

/-! ### ROUTE_SET -/

theorem Sink.ofCode_spec (n : Nat) : (Sink.ofCode n = none ∧ 2 < n) ∨ ∃ k, Sink.ofCode n = some k ∧ k.code = n ∧ n ≤ 2 := by
  match n with
  | 0 => exact .inr ⟨_, rfl, rfl, by decide⟩
  | 1 => exact .inr ⟨_, rfl, rfl, by decide⟩
  | 2 => exact .inr ⟨_, rfl, rfl, by decide⟩
  | n + 3 => exact .inl ⟨rfl, by omega⟩

/-- Parameters of ROUTE_SET that pass the first test are what they spell (R133). -/
theorem routeParams_of_fields {ps : List Byte} (h : routeSetFields ps) : ∃ p, routeParams ps = some p ∧ p.item = BitVec.ofNat 32 (field ps 0 4) ∧
    p.sink.code = field ps 4 1 ∧ p.idleLimit = field ps 5 2 ∧
    p.expected = if field ps 7 1 = 1 then some (BitVec.ofNat 32 (field ps 8 4)) else none := by
  obtain ⟨hitem, hsink, hidle, hexpected⟩ := h
  obtain ⟨-, hbad⟩ | ⟨k, hk, hcode, -⟩ := Sink.ofCode_spec (field ps 4 1)
  · omega
  · refine ⟨⟨BitVec.ofNat 32 (field ps 0 4), k, field ps 5 2, _⟩, ?_, rfl, hcode, rfl, rfl⟩
    simp only [routeParams, hk]
    exact if_pos (by simp [hitem, hidle, hexpected])

theorem routeParams_of_bad {ps : List Byte} (h : ¬routeSetFields ps) : routeParams ps = none := by
  by_contra hsome
  obtain ⟨p, hp⟩ := Option.ne_none_iff_exists'.mp hsome
  refine h ?_
  simp only [routeParams] at hp
  split at hp
  case h_1 k hk =>
    rw [Option.ite_none_right_eq_some] at hp
    obtain ⟨hc, -⟩ := hp
    simp only [Bool.and_eq_true, Bool.or_eq_true, beq_iff_eq, decide_eq_true_eq, ne_eq] at hc
    obtain ⟨⟨hitem, hidle⟩, hexpected⟩ := hc
    obtain ⟨hn, -⟩ | ⟨-, -, -, hle⟩ := Sink.ofCode_spec (field ps 4 1)
    · exact nomatch hn.symm.trans hk
    · exact ⟨hitem, hle, hidle, hexpected⟩
  case h_2 => cases hp

theorem State.freeRoute_none {s : State} (h : ∀ r, s.route r ≠ none) : s.freeRoute = none :=
  List.find?_eq_none.mpr fun r _ => by simpa [Option.isNone_iff_eq_none] using h r

/-- The lowest-numbered FREE route (R133). -/
theorem State.freeRoute_some {s : State} {r : RouteId} (h : s.route r = none) (hlow : ∀ q, q < r → s.route q ≠ none) : s.freeRoute = some r := by
  refine List.find?_eq_some_iff_getElem.mpr ⟨by simp [h], r.val, by simp, by simp, fun j hj => ?_⟩
  have := hlow ⟨j, by omega⟩ (by simpa [Fin.lt_def] using hj)
  simpa [Option.isSome_iff_ne_none] using this

theorem State.routeOf_isSome_iff (s : State) (item : Item) : (s.routeOf item).isSome = true ↔ ∃ r t, s.route r = some t ∧ t.item = item := by
  rw [State.routeOf, List.find?_isSome]
  refine ⟨fun ⟨r, _, hr⟩ => ?_, fun ⟨r, t, ht, hi⟩ => ⟨r, List.mem_finRange r, by simp [ht, hi]⟩⟩
  cases ht : s.route r with
  | none => simp [ht] at hr
  | some t => exact ⟨r, t, ht, by simpa [ht] using hr⟩

theorem Sink.code_inj {a b : Sink} (h : a.code = b.code) : a = b := by
  cases a <;> cases b <;> simp_all [Sink.code]

theorem Route.active_iff (t : Route) : t.active = true ↔ t.state = .waiting ∨ t.state = .receiving := by
  unfold Route.active
  cases t.state <;> simp [RouteState.isFinal]

/-- Another route with the same monitor sink is WAITING or RECEIVING (R133). -/
theorem State.sinkBusy_iff (s : State) (sink : Sink) : s.sinkBusy sink = true ↔ sink.code ≠ 2 ∧ ∃ r t, s.route r = some t ∧
    t.sink.code = sink.code ∧ (t.state = .waiting ∨ t.state = .receiving) := by
  have verify : (sink != .verify) = true ↔ sink.code ≠ 2 := by cases sink <;> simp [Sink.code]
  rw [State.sinkBusy, Bool.and_eq_true, verify, List.any_eq_true]
  refine and_congr_right fun _ => ⟨fun ⟨r, _, hr⟩ => ?_, fun ⟨r, t, ht, hsink, hstate⟩ => ⟨r, List.mem_finRange r, ?_⟩⟩
  · cases ht : s.route r with
    | none => simp [ht] at hr
    | some t =>
      simp only [ht, Bool.and_eq_true, beq_iff_eq, Route.active_iff] at hr
      exact ⟨r, t, ht, congrArg Sink.code hr.1, hr.2⟩
  · simp only [ht, Bool.and_eq_true, beq_iff_eq, Route.active_iff]
    exact ⟨Sink.code_inj hsink, hstate⟩

/-! ### ROUTE_CLEAR -/

/-- ROUTE_CLEAR flushes a port whose reference names the route (R134, R153; log 16). -/
theorem Monitor.clearRoute_eq (m : Monitor) (r : RouteId) : m.clearRoute r = if m.ref.map RouteRef.route = some r then
    { m with fifo := [], ref := none, pace := .go, state := if m.source = .routed then .silent else m.state } else m := by
  cases href : m.ref with
  | none => simp [Monitor.clearRoute, href]
  | some ref =>
    simp only [Monitor.clearRoute, href, Option.map_some, Option.some.injEq]
    rfl

theorem State.flushFor_monitor (s : State) (r : RouteId) (t : Route) (id : MonitorId) : (s.flushFor r t).monitor id =
    if t.sink.port = some id ∧ (s.monitor id).ref.map RouteRef.route = some r then
      { s.monitor id with fifo := [], ref := none, pace := .go, state := if (s.monitor id).source = .routed then .silent else (s.monitor id).state }
    else s.monitor id := by
  unfold State.flushFor
  cases hp : t.sink.port with
  | none => rw [if_neg (by simp)]
  | some k =>
    dsimp only
    simp only [State.monitor_setMonitor, Option.some.injEq]
    by_cases h : id = k
    · subst h
      rw [if_pos rfl, Monitor.clearRoute_eq]
      simp
    · rw [if_neg h, if_neg fun hk => h hk.1.symm]

theorem State.setMonitor_paceReady (s : State) (id : MonitorId) (m : Monitor) :
    (s.setMonitor id m).tx = { s.tx with paceReady := s.tx.paceReady || m.pace != (s.monitor id).pace } := by cases id <;> rfl

/-- A flush that changes a pace state makes a PACE ready (R154). -/
theorem State.flushFor_paceReady (s : State) (r : RouteId) (t : Route) : (s.flushFor r t).tx.paceReady = true ↔
    s.tx.paceReady = true ∨ ∃ id, ((s.flushFor r t).monitor id).pace ≠ (s.monitor id).pace := by
  unfold State.flushFor
  cases hp : t.sink.port with
  | none => simp
  | some k =>
    dsimp only
    rw [State.setMonitor_paceReady]
    simp only [Bool.or_eq_true, bne_iff_ne, State.monitor_setMonitor]
    refine or_congr_right ⟨fun h => ⟨k, by rwa [if_pos rfl]⟩, fun ⟨id, h⟩ => ?_⟩
    by_cases hk : id = k
    · subst hk
      rwa [if_pos rfl] at h
    · rw [if_neg hk] at h
      exact absurd rfl h

/-- Nothing but a monitor port and its PACE is touched by the flush of a cleared route. -/
theorem State.flushFor_eq (s : State) (r : RouteId) (t : Route) : s.flushFor r t = { s with
    monA := (s.flushFor r t).monA
    monB := (s.flushFor r t).monB
    tx := { s.tx with paceReady := (s.flushFor r t).tx.paceReady } } := by
  unfold State.flushFor
  cases t.sink.port with
  | none => rfl
  | some k => cases k <;> rfl

/-! ### MONITOR_SELECT -/

/-- A source that a selection names: by its code, and a lane by its number besides (R149, R176). -/
def SelectsSource (ps : List Byte) (source : Source) (state : MonitorState) : Prop :=
  source = .none ∧ state = .silent ∧ field ps 1 1 = 0 ∨ source = .routed ∧ state = .silent ∧ field ps 1 1 = 2 ∨
    ∃ l : LaneId, source = .lane l ∧ state = .live ∧ field ps 1 1 = 1 ∧ field ps 2 1 = l.val

theorem monitorOfCode_of_le {n : Nat} (h : 2 ≤ n) : monitorOfCode n = none := by
  match n, h with
  | n + 2, _ => rfl

theorem monitorSelect_done {ps : List Byte} {s : State} {id : MonitorId} {source : Source} {state : MonitorState}
    (hid : monitorOfCode (field ps 0 1) = some id) (h : SelectsSource ps source state) : monitorSelect ps s = monitorSelect.done s id source := by
  obtain ⟨rfl, -, hf⟩ | ⟨rfl, -, hf⟩ | ⟨l, rfl, -, hf, hl⟩ := h
  · simp only [monitorSelect, hid, hf]
  · simp only [monitorSelect, hid, hf]
  · simp only [monitorSelect, hid, hf, hl, laneOfNat_val]

theorem Monitor.select_eq (m : Monitor) {ps : List Byte} {source : Source} {state : MonitorState} (h : SelectsSource ps source state) :
    m.select source = { m with source := source, state := state, fifo := [], ref := none, pace := .go, live := if m.source = source then m.live else none } := by
  obtain ⟨rfl, rfl, -⟩ | ⟨rfl, rfl, -⟩ | ⟨l, rfl, rfl, -⟩ := h <;> rfl

theorem Source.bytes_eq (source : Source) : source.bytes = match source with
    | .none => [0, 0]
    | .lane l => 1 :: be 1 l.val
    | .routed => [2, 0] := by
  cases source <;> rfl

theorem State.setMonitor_reply (s : State) (id : MonitorId) (m : Monitor) (c : Command) (result : List Byte) :
    (accept (s.takeCommand.setMonitor id m) result).reply c = (s.setMonitor id m).answered c .ok result := by
  cases id <;> rfl

/-! ### Output frames -/

theorem outputs_eq (channels : Channels) (f : Pair) : outputs channels f = if channels = .one then ⟨f.a, f.a⟩ else f := by
  cases channels <;> rfl

theorem Monitor.paceDown_pace (m : Monitor) : m.paceDown = { m with pace := if m.fifo.length ≤ 2048 then .go else m.pace } := by
  unfold Monitor.paceDown
  split <;> rfl

end Sys2Proof.Machine

namespace Sys2Proof.Proofs
open Sys2Proof.Machine

/-- Settles O37, by the order of the tests. -/
theorem routeSet : Obligations.RouteSet := by
  intro s tag ps hr hn
  have run : exec .routeSet s = .next ((Machine.routeSet ps s.takeCommand).reply ⟨tag, 0x40, ps⟩) := command_counted_of_ready hr hn Machine.routeSet
  dsimp only
  refine ⟨fun hbad => ?_, fun hgood hall => ?_, fun r hgood hfree hlow => ?_⟩
  · rw [run, Machine.routeSet, routeParams_of_bad hbad]
    rfl
  · obtain ⟨p, hp, -⟩ := routeParams_of_fields hgood
    have full : s.takeCommand.freeRoute = none := State.freeRoute_none hall
    rw [run, Machine.routeSet, hp, full]
    rfl
  · obtain ⟨p, hp, hitem, hsink, hidle, hexpected⟩ := routeParams_of_fields hgood
    have free : s.takeCommand.freeRoute = some r := State.freeRoute_some hfree hlow
    have held := s.takeCommand.routeOf_isSome_iff p.item
    have busy := s.takeCommand.sinkBusy_iff p.sink
    rw [hitem] at held
    rw [hsink] at busy
    refine ⟨fun h => ?_, fun h hb => ?_, fun h hb => ⟨Route.set p, hitem, hsink, hidle, hexpected, rfl, rfl, rfl, rfl, rfl, rfl, rfl, rfl, rfl, rfl, rfl, rfl,
      rfl, ?_⟩⟩
    · have found : (s.takeCommand.routeOf p.item).isSome = true := hitem ▸ held.mpr h
      rw [run, Machine.routeSet, hp, free]
      dsimp only
      rw [if_pos found, reply_refuse]
    · have new : ¬(s.takeCommand.routeOf p.item).isSome = true := fun hf => h (held.mp (hitem ▸ hf))
      rw [run, Machine.routeSet, hp, free]
      dsimp only
      rw [if_neg new, if_pos (busy.mpr hb), reply_refuse]
    · have new : ¬(s.takeCommand.routeOf p.item).isSome = true := fun hf => h (held.mp (hitem ▸ hf))
      rw [run, Machine.routeSet, hp, free]
      dsimp only
      rw [if_neg new, if_neg fun hbusy => hb (busy.mp hbusy)]
      rfl

/-- Settles O38: the flush touches a port alone, the rest its flag and its route. -/
theorem routeClear : Obligations.RouteClear := by
  intro s tag ps hr hn
  have run : exec .routeClear s = .next ((Machine.routeClear ps s.takeCommand).reply ⟨tag, 0x41, ps⟩) := command_counted_of_ready hr hn Machine.routeClear
  refine ⟨fun h => ?_, fun r hf => ⟨fun hnone => ?_, fun t ht => ?_⟩⟩
  · rw [run, Machine.routeClear, routeOfNat_of_le h]
    rfl
  · rw [run, Machine.routeClear, hf, routeOfNat_val]
    dsimp only
    rw [State.route_takeCommand, hnone, reply_refuse]
  · let v := s.flushFor r t
    let u : State := { v with events := s.events.unmark (.routeDone r) }.setRoute r none
    have flushed : s.takeCommand.flushFor r t = { v with cmd := s.takeCommand.cmd } := by
      unfold v State.flushFor
      cases t.sink.port with
      | none => rfl
      | some k => cases k <;> rfl
    have stays : v = _ := s.flushFor_eq r t
    have events : v.events = s.events := (congrArg State.events stays :)
    have answer : exec .routeClear s = .next (u.answered ⟨tag, 0x41, ps⟩ .ok (be 1 t.state.code ++ be 1 (causeCode t.cause))) := by
      rw [run, Machine.routeClear, hf, routeOfNat_val]
      dsimp only
      rw [State.route_takeCommand, ht]
      dsimp only
      have cmd : v.cmd = s.cmd := (congrArg State.cmd stays :)
      rw [flushed]
      unfold u State.answered Reaction.reply accept State.setRoute
      dsimp only
      rw [events, cmd]
      rfl
    have routes : v.routes = s.routes := (congrArg State.routes stays :)
    have route (q : RouteId) : v.route q = s.route q := congrArg (fun rs : Vector (Option Route) 16 => rs[q]) routes
    refine ⟨u, answer, State.route_setRoute _ _ _, fun q hq => (State.route_setRoute_ne _ _ hq).trans (route q), fun f => ?_, EventUnit.unmark_notices _ _,
      EventUnit.unmark_mask _ _, fun id => s.flushFor_monitor r t id, (congrArg State.lanes stays :), (congrArg State.table stays :), (congrArg State.memory stays :),
      (congrArg State.rx stays :), (congrArg State.cmd stays :), (congrArg State.tx stays :), s.flushFor_paceReady r t⟩
    exact (EventUnit.isSet_unmark _ _ _).trans (by rw [bne, beq_eq_decide])

/-- Settles O43, by the port and the source named. -/
theorem monitorSelect : Obligations.MonitorSelect := by
  intro s tag ps hr hn
  have run : exec .monitorSelect s = .next ((Machine.monitorSelect ps s.takeCommand).reply ⟨tag, 0x50, ps⟩) :=
    command_counted_of_ready hr hn Machine.monitorSelect
  refine ⟨fun h => ?_, fun hport hsource hlane => ?_, fun id source state hid hsource => ?_⟩
  · have refused : Machine.monitorSelect ps s.takeCommand = refuse s.takeCommand .badParam := by
      unfold Machine.monitorSelect
      obtain h | h := h
      · rw [monitorOfCode_of_le h]
      · match hf : field ps 1 1, h with
        | n + 3, _ => cases monitorOfCode (field ps 0 1) <;> rfl
    rw [run, refused, reply_refuse]
  · obtain ⟨id, hid⟩ : ∃ id, monitorOfCode (field ps 0 1) = some id := by
      match field ps 0 1, hport with
      | 0, _ => exact ⟨_, rfl⟩
      | 1, _ => exact ⟨_, rfl⟩
    have refused : Machine.monitorSelect ps s.takeCommand = refuse s.takeCommand .badLane := by
      simp only [Machine.monitorSelect, hid, hsource, laneOfNat_of_le hlane]
    rw [run, refused, reply_refuse]
  · have found : monitorOfCode (field ps 0 1) = some id := by
      obtain ⟨rfl, hf⟩ | ⟨rfl, hf⟩ := hid <;> rw [hf] <;> rfl
    rw [run, monitorSelect_done found hsource, Machine.monitorSelect.done, State.setMonitor_reply, Monitor.select_eq _ hsource, Source.bytes_eq]
    rfl

/-- Settles O45, by the state of the port. -/
theorem monitorOutput : Obligations.MonitorOutput := by
  intro s id ha
  have run : exec (.monitorOutputFrame id) s = .next (s.outputFrame id) := running_of_awake ha fun s => s.outputFrame id
  dsimp only
  rw [run]
  refine ⟨fun h => ?_, fun f h hf => ?_, fun f h hf => ?_, fun l h hl => ⟨fun hlock => ?_, fun f hlock hlive => ?_, fun hlock hlive => ?_⟩,
    fun f g rest h hf hfifo => ⟨fun hne => ?_, fun he hfinal => ?_, fun he hfinal => ?_⟩⟩
  · simp only [State.outputFrame, State.outputRate, h]
  · simp only [State.outputFrame, State.outputRate, h, hf]
  · simp only [State.outputFrame, State.outputRate, h, hf, sat_eq]
    rfl
  · simp only [State.outputFrame, State.outputRate, h, hl, if_neg hlock]
  · simp only [State.outputFrame, State.outputRate, h, hl, if_pos hlock, hlive]
  · let f := freeLive s.freeDraws (s.lane l).inUse.channels
    refine ⟨f.a, f.b, fun hone => ?_, ?_⟩
    · simp only [f, freeLive, outputs, hone]
    · simp only [State.outputFrame, State.outputRate, h, hl, if_pos hlock, hlive]
      rfl
  · have ne : rest.isEmpty = false := by simpa using hne
    simp only [State.outputFrame, State.outputRate, h, hf, hfifo, Monitor.paceDown_pace, Monitor.afterPlayed, outputs_eq, ne, Bool.false_eq_true, if_false]
  · subst he
    simp only [State.outputFrame, State.outputRate, h, hf, hfifo, Monitor.paceDown_pace, Monitor.afterPlayed, outputs_eq, hfinal, List.isEmpty_nil, if_true]
  · subst he
    simp only [State.outputFrame, State.outputRate, h, hf, hfifo, Monitor.paceDown_pace, Monitor.afterPlayed, outputs_eq, hfinal, List.isEmpty_nil, if_true,
      Bool.false_eq_true, if_false]

end Sys2Proof.Proofs

/-! Packets received whole, packets sent, and the buffers that they free (R117, R123-R128, R159-R161). -/

namespace Sys2Proof.Machine

/-! ### Packets received whole -/

theorem bump_eq (n : Nat) : bump n = min 4294967295 (n + 1) := sat_eq _ _

/-- The state with a packet that was being received broken off and counted (R159). -/
def State.broken (s : State) : State :=
  match s.rx.packet with
  | some _ => { s with tx := { s.tx with stats := { s.tx.stats with malformed := min 4294967295 (s.tx.stats.malformed + 1) } } }
  | none => s

theorem State.broken_of_none {s : State} (h : s.rx.packet = none) : s.broken = s := by rw [State.broken, h]

theorem State.broken_of_some {s : State} {bytes : List Byte} (h : s.rx.packet = some bytes) : s.broken =
    { s with tx := { s.tx with stats := { s.tx.stats with malformed := min 4294967295 (s.tx.stats.malformed + 1) } } } := by
  rw [State.broken, h]

theorem State.countMalformed_eq (s : State) : s.countMalformed =
    { s with tx := { s.tx with stats := { s.tx.stats with malformed := min 4294967295 (s.tx.stats.malformed + 1) } } } := by
  rw [State.countMalformed, State.count, bump_eq]

theorem State.breakPacket_eq {s : State} {r : Receiver} (h : r.packet = s.rx.packet) :
    ({ s with rx := r } : State).breakPacket = { s.broken with rx := { r with packet := none } } := by
  cases hp : s.rx.packet with
  | none =>
    have nothing : r.packet = none := h.trans hp
    have same : ({ r with packet := none } : Receiver) = r := by rw [← nothing]
    rw [State.broken_of_none hp, same]
    simp only [State.breakPacket, nothing]
  | some bytes =>
    rw [State.broken_of_some hp]
    simp only [State.breakPacket, h.trans hp, State.countMalformed_eq]

/-! ### Words of a link that is UP -/

section
variable {s : State}

theorem State.receiveWord_up (h : s.rx.state = .up) (w : LinkWord) : s.receiveWord w = s.upWord w := by rw [State.receiveWord, h]

theorem State.upWord_idle : s.upWord .idle = { s.broken with rx := { s.rx with run := 0, packet := none } } :=
  State.breakPacket_eq (s := s) (r := { s.rx with run := 0 }) rfl

theorem State.upWord_start : s.upWord .start = { s.broken with rx := { s.rx with run := 0, packet := some [] } } :=
  congrArg (fun u : State => { u with rx := { u.rx with packet := some [] } }) (State.breakPacket_eq (s := s) (r := { s.rx with run := 0 }) rfl)

theorem State.breakPacket_self : s.breakPacket = { s.broken with rx := { s.rx with packet := none } } :=
  State.breakPacket_eq (s := s) (r := s.rx) rfl

theorem State.upWord_unrecognised (h : s.rx.run + 1 < 8) :
    s.upWord .unrecognised = { s.broken with rx := { s.rx with run := s.rx.run + 1, packet := none } } := by
  simp only [State.upWord, State.breakPacket_self]
  exact if_neg (by exact Nat.not_le.mpr h)

end

/-- A packet on a link that is UP breaks off the one being received and then has its effect (R159; log 22). -/
theorem State.wholePacket_of_up {s : State} (h : s.rx.state = .up) (dispatch : State → State) :
    s.wholePacket dispatch = dispatch { s.broken with rx := { s.rx with run := 0, packet := none } } := by
  simp only [State.wholePacket, State.receiveWord_up h, State.upWord_start]
  exact if_pos (by simp [State.linkUp, h])

/-- A packet that comes while none is being received, on a link that is UP, has its effect at once. -/
theorem State.wholePacket_of_receiving {s : State} (h : s.receiving = true) (dispatch : State → State) : s.wholePacket dispatch = dispatch s := by
  simp only [State.receiving, State.linkUp, Bool.and_eq_true, beq_iff_eq, Option.isNone_iff_eq_none] at h
  obtain ⟨⟨⟨-, hup⟩, hnone⟩, hrun⟩ := h
  have rx : ({ s.rx with run := 0, packet := none } : Receiver) = s.rx := by rw [← hrun, ← hnone]
  rw [State.wholePacket_of_up hup, State.broken_of_none hnone, rx]

theorem running_of_receiving {s : State} (h : s.receiving = true) (f : State → State) : running s f = .next (f s) := by
  simp only [State.receiving, Bool.and_eq_true] at h
  exact running_of_awake h.1.1.1 f

theorem State.linkUp_of_receiving {s : State} (h : s.receiving = true) : s.rx.state = .up ∧ s.rx.packet = none ∧ s.rx.run = 0 := by
  simp only [State.receiving, State.linkUp, Bool.and_eq_true, beq_iff_eq, Option.isNone_iff_eq_none] at h
  exact ⟨h.1.1.2, h.1.2, h.2⟩

/-- A packet on a link that is ALIGNING is words that are no idle words: it starts the alignment count again (R157; log 22). -/
theorem State.wholePacket_of_aligning {s : State} (h : s.rx.state = .aligning) (dispatch : State → State) :
    s.wholePacket dispatch = { s with rx := { s.rx with align := 0 } } := by
  simp [State.wholePacket, State.receiveWord, h, State.alignWord, State.linkUp]

/-! ### The bytes of packets sent -/

theorem Summary.bytes_eq (m : Summary) : m.bytes = [m.attention, BitVec.ofNat 8 ((if m.device = true then 1 else 0) + if m.routeDone = true then 2 else 0),
    BitVec.ofNat 8 m.closed, BitVec.ofNat 8 m.free] := by
  unfold Summary.bytes
  cases m.device <;> cases m.routeDone <;> rfl

theorem paceByte_eq (a b : Gate) : paceByte a b = BitVec.ofNat 8 ((if a = .hold then 1 else 0) + if b = .hold then 2 else 0) := by
  cases a <;> cases b <;> rfl

theorem Reply.bytes_eq (r : Reply) : r.bytes = be 2 r.tag.toNat ++ [r.code] ++ be 1 r.status.code ++
    [r.summary.attention, BitVec.ofNat 8 ((if r.summary.device = true then 1 else 0) + if r.summary.routeDone = true then 2 else 0),
      BitVec.ofNat 8 r.summary.closed, BitVec.ofNat 8 r.summary.free] ++ be 2 r.result.length ++ r.result := by
  rw [Reply.bytes, Summary.bytes_eq]

/-- The subject of a notice: a lane, a route or neither (R175). -/
theorem Flag.subject_eq (f : Flag) : [f.laneByte, f.routeByte] = match f with
    | .lane l _ => be 1 l.val ++ [0xFF]
    | .device _ => [0xFF, 0xFF]
    | .routeDone r => [0xFF] ++ be 1 r.val := by
  cases f <;> rfl

theorem Block.bytes_eq (b : Block) : b.bytes = be 4 b.item.toNat ++ be 1 b.lane.val ++
    be 4 b.seq ++ be 1 ((if b.first = true then 1 else 0) + if b.last = true then 2 else 0) ++ be 2 b.frames ++
    be 1 b.channels.count ++ be 1 b.rate.val ++ be 4 b.gap ++ b.payload ++
    match b.trailer with
      | some t => be 5 t.length.toNat ++ be 6 t.programme.toNat ++ be 4 t.lost.toNat ++ be 4 t.concealed.toNat ++
          be 4 t.digest.toNat ++ [t.reason, t.flags, t.segments]
      | none => [] := by
  unfold Block.bytes
  rw [rateByte_eq_be]
  cases b.first <;> cases b.last <;> cases b.trailer <;> rfl

/-! ### The transmitter's choice -/

section
variable {s : State}

theorem State.transmit_busy (h : s.rx.state ≠ .up ∨ s.tx.inFlight ≠ none) : s.transmit = s := by
  refine if_pos ?_
  obtain h | h := h
  · simp [State.linkUp, h]
  · simp [Option.isSome_iff_ne_none, h]

/-- A free transmitter of a link that is UP: PACE, REPLY, NOTICE, and BLOCK when the gate is GO (R127). -/
theorem State.transmit_free (hup : s.rx.state = .up) (hf : s.tx.inFlight = none) : s.transmit =
    if s.tx.paceReady then { s.begin .pace with tx := { (s.begin .pace).tx with paceReady := false } }
    else match s.cmd.done with
      | _ :: _ => s.begin .reply
      | [] =>
        match s.events.notices with
        | n :: rest => { s.begin (.notice n) with events := { s.events with notices := rest } }
        | [] =>
          match s.tx.gate, s.memory.queue with
          | .go, b :: rest => { s.begin (.block b) with memory := { s.memory with queue := rest } }
          | _, _ => s := by
  unfold State.transmit
  rw [if_neg (by simp [State.linkUp, hup, hf])]
  rfl

end

/-! ### The buffers that a packet frees -/

/-- No waiting lane can be granted a buffer: none is granted (R117). -/
theorem State.grant_none {s : State} (h : ∀ l ∈ s.memory.waiting, s.canGrant l = false) : s.grant = s := by
  unfold State.grant
  cases s.memory.waiting.length with
  | zero => rfl
  | succ n =>
    have nothing : (s.memory.waiting.find? fun l => s.canGrant l) = none := List.find?_eq_none.mpr fun l hl => by simp [h l hl]
    unfold State.grantLoop
    rw [nothing]

/-- The first waiting lane that can be granted a buffer is granted one, and again while a waiting lane can be granted one (R117). -/
theorem State.grant_some {s : State} {before behind : List LaneId} {l : LaneId} {o : OpenItem} (hw : s.memory.waiting = before ++ l :: behind)
    (hbefore : ∀ k ∈ before, s.canGrant k = false) (hl : s.canGrant l = true) (ho : (s.lane l).item = some o) :
    (s.grant.lane l).item = some { o with buffer := some ⟨0, 0, []⟩ } ∧ l ∉ s.grant.memory.waiting ∧
      s.grant.memory.queue = s.memory.queue ∧ s.grant.table = s.table ∧ s.grant.tx = s.tx ∧
      ∀ k ∈ s.grant.memory.waiting, s.grant.canGrant k = false := by
  have first : (s.memory.waiting.find? fun l => s.canGrant l) = some l :=
    List.find?_eq_some_iff_append.mpr ⟨hl, before, behind, hw, fun k hk => by simp [hbefore k hk]⟩
  have mem : l ∈ s.memory.waiting := by simp [hw]
  have out : l ∉ s.grant.memory.waiting := by
    have length : s.memory.waiting.length = before.length + behind.length + 1 := by simp [hw]; omega
    rw [State.grant, length, State.grantLoop, first]
    intro hin
    have := (State.grantLoop_waiting _ _).1.subset hin
    simp [State.giveBuffer, State.stopWaiting] at this
  obtain ⟨lanes, waiting, e, -⟩ := State.grantLoop_eq s.memory.waiting.length s
  obtain ⟨-, left, stay⟩ := State.grantLoop_waiting s.memory.waiting.length s
  have e : s.grant = _ := e
  refine ⟨congrArg Lane.item (left l o mem out ho), out, ?_, ?_, ?_, stay le_rfl⟩
  · rw [e]
  · rw [e]
  · rw [e]

end Sys2Proof.Machine

namespace Sys2Proof.Proofs
open Sys2Proof.Machine

/-- Settles O48: a packet received whole is what its row does. -/
theorem packetsTaken : Obligations.PacketsTaken := by
  intro s
  dsimp only
  refine ⟨fun hr => ?_, fun ha hal c hc => ?_⟩
  · obtain ⟨hup, hnone, hrun⟩ := State.linkUp_of_receiving hr
    have whole (dispatch : State → State) : running s (fun s => s.wholePacket dispatch) = .next (dispatch s) := by
      rw [running_of_receiving hr, State.wholePacket_of_receiving hr]
    have rx : ({ s.rx with run := 0, packet := none } : Receiver) = s.rx := by rw [← hrun, ← hnone]
    have inside (w : LinkWord) : (s.receiveWord .start).receiveWord w =
        ({ s with rx := { s.rx with run := 0, packet := some [] } } : State).upWord w := by
      rw [State.receiveWord_up hup, State.upWord_start, State.broken_of_none hnone]
      exact State.receiveWord_up (s := { s with rx := { s.rx with run := 0, packet := some [] } }) hup w
    have within : ({ s with rx := { s.rx with run := 0, packet := some [] } } : State).broken = _ := State.broken_of_some rfl
    refine ⟨fun tag code ps hlen => ⟨fun hroom => ?_, fun hfull => ?_⟩, fun tag code ps hlen => ?_, fun g => ⟨fun hg => ?_, fun hg => ?_⟩,
      fun cause hcause => ?_, ?_, ?_⟩
    · refine (whole _).trans (congrArg Host.Outcome.next ?_)
      rw [if_pos hlen, State.receiveCommand]
      refine (if_pos (by exact hroom)).trans ?_
      rw [State.count, bump_eq]
    · refine (whole _).trans (congrArg Host.Outcome.next ?_)
      rw [if_pos hlen, State.receiveCommand]
      refine (if_neg (by exact Nat.not_lt.mpr hfull)).trans ?_
      rw [State.count, bump_eq]
    · refine (whole _).trans (congrArg Host.Outcome.next ?_)
      rw [if_neg (Nat.not_le.mpr hlen), State.countMalformed_eq]
    · refine (whole _).trans (congrArg Host.Outcome.next ?_)
      simp only [State.receiveGate, hg, if_true]
      simp [State.count, State.refreshHold, State.holding, State.linkUp, hup, bump_eq]
    · refine (whole _).trans (congrArg Host.Outcome.next ?_)
      simp only [State.receiveGate, hg, Bool.false_eq_true, if_false]
      simp [State.count, State.refreshHold, State.holding, State.linkUp, hup, bump_eq]
    · have counted : running s (fun s => s.wholePacket State.countMalformed) = _ := (whole _).trans (congrArg Host.Outcome.next s.countMalformed_eq)
      simp only [List.mem_cons, List.not_mem_nil, or_false] at hcause
      obtain rfl | rfl | rfl | rfl := hcause
      · exact counted
      · exact counted
      · exact counted
      · refine (running_of_receiving hr fun s => s.malformed .idleWordInside).trans (congrArg Host.Outcome.next ?_)
        rw [State.malformed, inside, State.upWord_idle, within]
        dsimp only
        rw [rx]
    · refine (running_of_receiving hr fun s => s.malformed .unrecognisedWordInside).trans (congrArg Host.Outcome.next ?_)
      rw [State.malformed, inside, State.upWord_unrecognised (by exact Nat.lt_of_sub_eq_succ rfl), within]
      dsimp only
      rw [← hnone]
    · refine (running_of_receiving hr fun s => s.malformed .startWordInside).trans (congrArg Host.Outcome.next ?_)
      rw [State.malformed, inside, State.upWord_start, within]
      dsimp only
      rw [← hrun]
  · have whole (dispatch : State → State) : running s (fun s => s.wholePacket dispatch) = .next { s with rx := { s.rx with align := 0 } } := by
      rw [running_of_awake ha, State.wholePacket_of_aligning hal]
    obtain ⟨tag, code, ps, rfl⟩ | ⟨p, rfl⟩ | ⟨g, rfl⟩ | hc := hc
    · exact whole _
    · exact whole _
    · exact whole _
    · simp only [List.mem_cons, List.not_mem_nil, or_false] at hc
      obtain rfl | rfl | rfl := hc
      · exact whole _
      · exact whole _
      · exact whole _

/-- Settles O51, by the order of R127. -/
theorem transmitStart : Obligations.TransmitStart := by
  intro s ha
  have run : exec .transmitStart s = .next s.transmit := running_of_awake ha fun s => s.transmit
  dsimp only
  rw [run]
  refine ⟨fun h => congrArg Host.Outcome.next (State.transmit_busy h), fun hup hf => ?_⟩
  rw [State.transmit_free hup hf]
  refine ⟨fun hp bits hbits => ?_, fun hp => ?_⟩
  · rw [if_pos hp, hbits, ← paceByte_eq]
    rfl
  · rw [if_neg (by simp [hp])]
    refine ⟨fun r rest hd => ?_, fun hd => ⟨fun rest hn => ?_, fun f item rest hn => ?_, fun hn => ⟨fun hno => ?_, fun b rest hg hq => ?_⟩⟩⟩
    · have bytes : s.packetBytes .reply = withCheck ([0x02] ++ be 2 r.tag.toNat ++ [r.code] ++ be 1 r.status.code ++
          [r.summary.attention, BitVec.ofNat 8 ((if r.summary.device = true then 1 else 0) + if r.summary.routeDone = true then 2 else 0),
            BitVec.ofNat 8 r.summary.closed, BitVec.ofNat 8 r.summary.free] ++ be 2 r.result.length ++ r.result) := by
        simp only [State.packetBytes, hd, List.head?_cons, Option.map_some, Option.getD_some, Reply.bytes_eq, List.cons_append, List.append_assoc,
          List.nil_append]
      rw [hd, ← bytes]
      rfl
    · have bytes : s.packetBytes (.notice .status) = withCheck ([0x03, 0] ++ be 1 s.events.cause.code ++
          [0x57, 0x41, 0x84, 0x20, 0x01, 0x5A, 0x0F, 0x3C, 0x96, 8, 96, 192, 16, 2] ++ s.summary.bytes) := rfl
      rw [hd, hn, ← Summary.bytes_eq, ← bytes]
      rfl
    · have bytes : s.packetBytes (.notice (.event f item)) = withCheck ([0x03] ++ be 1 f.noticeCode ++ (match f with
          | .lane l _ => be 1 l.val ++ [0xFF]
          | .device _ => [0xFF, 0xFF]
          | .routeDone r => [0xFF] ++ be 1 r.val) ++ be 4 item.toNat) := by
        rw [State.packetBytes, Notice.bytes, Flag.subject_eq]
        cases f <;> rfl
      rw [hd, hn]
      refine congrArg (fun bs => Host.Outcome.next ({ s with
        tx := { s.tx with inFlight := some ⟨.notice (.event f item), bs⟩ }
        events := { s.events with notices := rest } } : State)) (bytes.trans ?_)
      cases f <;> rfl
    · rw [hd, hn]
      obtain hg | hq := hno
      · rw [hg]
      · rw [hq]
        cases s.tx.gate <;> rfl
    · have bytes : s.packetBytes (.block b) = withCheck ([0x04] ++ b.bytes) := rfl
      rw [hd, hn]
      conv_lhs => rw [hg, hq]
      refine congrArg (fun bs => Host.Outcome.next ({ s with
        tx := { s.tx with inFlight := some ⟨.block b, bs⟩ }
        memory := { s.memory with queue := rest } } : State)) (bytes.trans ?_)
      cases ht : b.trailer <;> simp only [Block.bytes_eq, ht, List.append_assoc]

/-- Settles O52, by the kind of the packet. -/
theorem packetSent : Obligations.PacketSent := by
  intro s ha
  have run : exec .packetSent s = .next s.complete := running_of_awake ha fun s => s.complete
  dsimp only
  rw [run]
  refine ⟨fun h => by rw [State.complete, h], fun p bytes h => ?_⟩
  refine ⟨?_, ?_, ?_, ?_, ?_⟩
  · rintro rfl
    simp only [State.complete, h, State.count, bump_eq]
  · rintro rfl
    simp only [State.complete, h, State.count, bump_eq]
  · rintro f item rfl
    simp only [State.complete, h, State.count, bump_eq]
  · rintro rfl
    have last : (s.cmd.done.drop 1).isEmpty = true ↔ s.cmd.done.length ≤ 1 := by rw [List.isEmpty_iff, List.drop_eq_nil_iff]
    simp only [State.complete, h, State.count, bump_eq, last]
  · rintro b rfl
    let freed : State := { s with tx := { s.tx with inFlight := none, stats := { s.tx.stats with blocks := min 4294967295 (s.tx.stats.blocks + 1) } } }
    have done : s.complete = freed.grant := by simp only [State.complete, h, State.count, bump_eq, freed]
    rw [done]
    refine ⟨fun hnone => congrArg Host.Outcome.next (State.grant_none (s := freed) hnone), fun before l behind o hw hbefore hl ho => ?_⟩
    exact ⟨_, rfl, State.grant_some (s := freed) hw hbefore hl ho⟩

end Sys2Proof.Proofs

/-! Link words, and the packets that they spell (R157-R159, R174, R175; log 22). -/

namespace Sys2Proof.Machine

/-! ### The classes of words -/

theorem word_eq_append (w : BitVec 10) : w = w.extractLsb' 8 2 ++ w.extractLsb' 0 8 := by
  refine BitVec.eq_of_getLsbD_eq fun i hi => ?_
  rw [BitVec.getLsbD_append, BitVec.getLsbD_extractLsb', BitVec.getLsbD_extractLsb']
  by_cases h : i < 8
  · simp [h]
  · have : i - 8 < 2 := by omega
    have : 8 + (i - 8) = i := by omega
    simp [*]

theorem classify_data (b : Byte) : classify (dataWord b) = .data b := by
  have prefixed : (dataWord b).extractLsb' 8 2 = 1#2 := BitVec.extractLsb'_append_eq_left
  have byte : (dataWord b).extractLsb' 0 8 = b := BitVec.extractLsb'_append_eq_right
  rw [classify, prefixed, byte]
  rfl

/-- A word that is no control word of the link and no data word is unrecognised (R174). -/
theorem classify_unrecognised {w : BitVec 10} (h : ¬(w = 0x23C#10 ∨ w = 0x25B#10 ∨ w = 0x25D#10 ∨ ∃ b, w = dataWord b)) :
    classify w = .unrecognised := by
  have e := word_eq_append w
  have word {p : BitVec 2} {n : Nat} (hp : (w.extractLsb' 8 2).toNat = n) (hn : p.toNat = n) : w = p ++ w.extractLsb' 0 8 := by
    have : w.extractLsb' 8 2 = p := BitVec.eq_of_toNat_eq (hp.trans hn.symm)
    rw [this] at e
    exact e
  unfold classify
  dsimp only
  split
  case h_1 hp => exact absurd (.inr (.inr (.inr ⟨_, word (p := 1#2) hp rfl⟩))) h
  case h_2 hp =>
    have control := word (p := 2#2) hp rfl
    split
    · next hb => rw [hb] at control; exact absurd (.inl control) h
    split
    · next hb => rw [hb] at control; exact absurd (.inr (.inl control)) h
    split
    · next hb => rw [hb] at control; exact absurd (.inr (.inr (.inl control))) h
    · rfl
  case h_3 => rfl

/-- The idle word alone is of the idle class (R174). -/
theorem classify_eq_idle {w : BitVec 10} (h : classify w = .idle) : w = 0x23C#10 := by
  by_contra hw
  by_cases hr : w = 0x23C#10 ∨ w = 0x25B#10 ∨ w = 0x25D#10 ∨ ∃ b, w = dataWord b
  · obtain rfl | rfl | rfl | ⟨b, rfl⟩ := hr
    · exact hw rfl
    · exact absurd h (by decide)
    · exact absurd h (by decide)
    · rw [classify_data] at h
      exact LinkWord.noConfusion h
  · rw [classify_unrecognised hr] at h
    exact LinkWord.noConfusion h

/-! ### The test of a packet at its end word -/

theorem take_withCheck (bs : List Byte) : (withCheck bs).take ((withCheck bs).length - 2) = bs := by
  simp [withCheck, be]

theorem withCheck_length (bs : List Byte) : (withCheck bs).length = bs.length + 2 := by
  simp [withCheck, be]

section
variable {s : State} {rest : List Byte}

theorem State.receivePacket_rejected {bytes : List Byte} (h : bytes.length < 3 ∨ bytes ≠ withCheck (bytes.take (bytes.length - 2))) :
    s.receivePacket bytes = s.countMalformed := if_pos (by simpa using h)

/-- A packet of 3 bytes or more whose check is right is dispatched by its kind (R159). -/
theorem State.receivePacket_withCheck {kind : Byte} : s.receivePacket (withCheck (kind :: rest)) =
    if kind = 0x01#8 then
      if 3 ≤ rest.length ∧ rest.length ≤ 50 then s.receiveCommand ⟨BitVec.ofNat 16 (field rest 0 2), BitVec.ofNat 8 (field rest 2 1), rest.drop 3⟩
      else s.countMalformed
    else if kind = 0x05#8 then
      match recallOf rest with
      | some p => s.receiveRecall p
      | none => s.countMalformed
    else if kind = 0x06#8 then
      match rest with
      | [gate] => s.receiveGate gate
      | _ => s.countMalformed
    else s.countMalformed := by
  have lengths : (6 ≤ (withCheck (kind :: rest)).length && (withCheck (kind :: rest)).length ≤ 53) = true ↔ 3 ≤ rest.length ∧ rest.length ≤ 50 := by
    simp only [withCheck_length, List.length_cons, Bool.and_eq_true, decide_eq_true_eq]
    omega
  unfold State.receivePacket
  have right : ¬((withCheck (kind :: rest)).length < 3 ||
      withCheck (kind :: rest) != withCheck ((withCheck (kind :: rest)).take ((withCheck (kind :: rest)).length - 2))) = true := by
    rw [take_withCheck]
    simp [withCheck_length]
  rw [if_neg right]
  simp only [take_withCheck, lengths]
  rfl

theorem State.receivePacket_unknown {kind : Byte} (h1 : kind ≠ 0x01#8) (h5 : kind ≠ 0x05#8) (h6 : kind ≠ 0x06#8) :
    s.receivePacket (withCheck (kind :: rest)) = s.countMalformed := by
  rw [State.receivePacket_withCheck, if_neg h1, if_neg h5, if_neg h6]

theorem State.receivePacket_command_rejected (h : rest.length < 3 ∨ 50 < rest.length) :
    s.receivePacket (withCheck (0x01#8 :: rest)) = s.countMalformed := by
  rw [State.receivePacket_withCheck, if_pos rfl, if_neg (by omega)]

theorem State.receivePacket_gate_rejected (h : rest.length ≠ 1) : s.receivePacket (withCheck (0x06#8 :: rest)) = s.countMalformed := by
  rw [State.receivePacket_withCheck, if_neg (by decide), if_neg (by decide), if_pos rfl]
  split
  · exact absurd rfl h
  · rfl

theorem State.receivePacket_gate {g : Byte} : s.receivePacket (withCheck [0x06#8, g]) = s.receiveGate g := by
  rw [State.receivePacket_withCheck, if_neg (by decide), if_neg (by decide), if_pos rfl]

theorem State.receivePacket_recall_rejected (h : recallOf rest = none) : s.receivePacket (withCheck (0x05#8 :: rest)) = s.countMalformed := by
  rw [State.receivePacket_withCheck, if_neg (by decide), if_pos rfl, h]

theorem State.receivePacket_recall {p : RecallPacket} (h : recallOf rest = some p) :
    s.receivePacket (withCheck (0x05#8 :: rest)) = s.receiveRecall p := by
  rw [State.receivePacket_withCheck, if_neg (by decide), if_pos rfl, h]

end

/-! ### The fields of a packet read back -/

/-- A number that stands at `pos` in bytes is the field there. -/
theorem field_be {as bs : List Byte} {pos n v : Nat} (hpos : as.length = pos) (hv : v < 256 ^ n) : field (as ++ (be n v ++ bs)) pos n = v := by
  have front := field_append as (be n v ++ bs) 0 n
  have read := field_zero (be n v) bs
  rw [length_be] at read
  rw [Nat.add_zero, hpos] at front
  rw [front, read, beNat_be, Nat.mod_eq_of_lt hv]

theorem field_bits {w n pos : Nat} {as bs : List Byte} {x : BitVec w} (hpos : as.length = pos) (hw : 2 ^ w = 256 ^ n) :
    BitVec.ofNat w (field (as ++ (be n x.toNat ++ bs)) pos n) = x := by
  rw [field_be hpos (hw ▸ x.isLt), BitVec.ofNat_toNat, BitVec.setWidth_eq]

theorem field_byte {as bs : List Byte} {b : Byte} {pos : Nat} (hpos : as.length = pos) : field (as ++ (b :: bs)) pos 1 = b.toNat := by
  rw [field_one, ← hpos, List.getD_append_right _ _ _ _ le_rfl, Nat.sub_self]
  rfl

/-- A COMMAND's bytes give its tag, its code and its parameters back (R175). -/
theorem State.receivePacket_command {s : State} {tag : BitVec 16} {code : Byte} {ps : List Byte} (h : ps.length ≤ 47) :
    s.receivePacket (withCheck (0x01#8 :: (be 2 tag.toNat ++ [code] ++ ps))) = s.receiveCommand ⟨tag, code, ps⟩ := by
  have length : (be 2 tag.toNat ++ [code] ++ ps).length = ps.length + 3 := by simp; omega
  have readTag : BitVec.ofNat 16 (field (be 2 tag.toNat ++ [code] ++ ps) 0 2) = tag := by
    rw [List.append_assoc]
    exact field_bits (as := []) rfl rfl
  have readCode : BitVec.ofNat 8 (field (be 2 tag.toNat ++ [code] ++ ps) 2 1) = code := by
    rw [List.append_assoc, List.singleton_append, field_byte (length_be 2 _), BitVec.ofNat_toNat, BitVec.setWidth_eq]
  have readParams : (be 2 tag.toNat ++ [code] ++ ps).drop 3 = ps := List.drop_left' (by simp)
  rw [State.receivePacket_withCheck, if_pos rfl, length, if_pos (by omega), readTag, readCode, readParams]

/-- The header of a RECALL's block record, 18 bytes (R175). -/
def recallHeader (p : RecallPacket) : List Byte :=
  be 4 p.item.toNat ++ [p.lane] ++ be 4 p.seq.toNat ++ [p.flags] ++ be 2 p.frames.toNat ++ [p.channels, p.rate] ++ be 4 p.gap.toNat

/-- The 26 bytes of a trailer (R175). -/
def recallTrailer (t : Trailer) : List Byte :=
  be 5 t.length.toNat ++ be 6 t.programme.toNat ++ be 4 t.lost.toNat ++ be 4 t.concealed.toNat ++ be 4 t.digest.toNat ++
    [t.reason, t.flags, t.segments]

/-- The trailer of a block record, where it has one. -/
def recallTail (p : RecallPacket) : List Byte :=
  match p.trailer with
  | some t => (recallTrailer t)
  | none => []

theorem trailerOf_recallTrailer (t : Trailer) : trailerOf (recallTrailer t) = t := by
  have split : recallTrailer t = be 5 t.length.toNat ++ (be 6 t.programme.toNat ++ (be 4 t.lost.toNat ++ (be 4 t.concealed.toNat ++
      (be 4 t.digest.toNat ++ [t.reason, t.flags, t.segments])))) := by simp [recallTrailer]
  have length : BitVec.ofNat 40 (field (recallTrailer t) 0 5) = t.length := by
    rw [split]; exact field_bits (as := []) rfl rfl
  have programme : BitVec.ofNat 48 (field (recallTrailer t) 5 6) = t.programme := by
    rw [split]; exact field_bits (by simp) rfl
  have lost : BitVec.ofNat 32 (field (recallTrailer t) 11 4) = t.lost := by
    rw [split, ← List.append_assoc]; exact field_bits (by simp) rfl
  have concealed : BitVec.ofNat 32 (field (recallTrailer t) 15 4) = t.concealed := by
    rw [split, ← List.append_assoc, ← List.append_assoc]; exact field_bits (by simp) rfl
  have digest : BitVec.ofNat 32 (field (recallTrailer t) 19 4) = t.digest := by
    rw [split, ← List.append_assoc, ← List.append_assoc, ← List.append_assoc]; exact field_bits (by simp) rfl
  have reason : BitVec.ofNat 8 (field (recallTrailer t) 23 1) = t.reason := by
    rw [recallTrailer, field_byte (by simp), BitVec.ofNat_toNat, BitVec.setWidth_eq]
  have flags : BitVec.ofNat 8 (field (recallTrailer t) 24 1) = t.flags := by
    rw [recallTrailer, List.append_cons, field_byte (by simp), BitVec.ofNat_toNat, BitVec.setWidth_eq]
  have segments : BitVec.ofNat 8 (field (recallTrailer t) 25 1) = t.segments := by
    rw [recallTrailer, List.append_cons, List.append_cons, field_byte (by simp), BitVec.ofNat_toNat, BitVec.setWidth_eq]
  rw [trailerOf, length, programme, lost, concealed, digest, reason, flags, segments]

/-- The fields of a header, whatever follows it. -/
theorem recallHeader_fields (p : RecallPacket) (bs : List Byte) :
    field (recallHeader p ++ bs) 0 4 = p.item.toNat ∧ field (recallHeader p ++ bs) 4 1 = p.lane.toNat ∧
      field (recallHeader p ++ bs) 5 4 = p.seq.toNat ∧ field (recallHeader p ++ bs) 9 1 = p.flags.toNat ∧
      field (recallHeader p ++ bs) 10 2 = p.frames.toNat ∧ field (recallHeader p ++ bs) 12 1 = p.channels.toNat ∧
      field (recallHeader p ++ bs) 13 1 = p.rate.toNat ∧ field (recallHeader p ++ bs) 14 4 = p.gap.toNat := by
  have split : recallHeader p ++ bs = be 4 p.item.toNat ++ (p.lane :: (be 4 p.seq.toNat ++ (p.flags :: (be 2 p.frames.toNat ++
      (p.channels :: p.rate :: (be 4 p.gap.toNat ++ bs)))))) := by simp [recallHeader]
  rw [split]
  refine ⟨?_, ?_, ?_, ?_, ?_, ?_, ?_, ?_⟩
  · exact field_be (as := []) rfl p.item.isLt
  · exact field_byte (length_be _ _)
  · rw [List.append_cons]
    exact field_be (by simp) p.seq.isLt
  · rw [List.append_cons, ← List.append_assoc]
    exact field_byte (by simp)
  · rw [List.append_cons, ← List.append_assoc, List.append_cons]
    exact field_be (by simp) p.frames.isLt
  · rw [List.append_cons, ← List.append_assoc, List.append_cons, ← List.append_assoc]
    exact field_byte (by simp)
  · rw [List.append_cons, ← List.append_assoc, List.append_cons, ← List.append_assoc, List.append_cons]
    exact field_byte (by simp)
  · rw [List.append_cons, ← List.append_assoc, List.append_cons, ← List.append_assoc, List.append_cons, List.append_cons]
    exact field_be (by simp) p.gap.isLt

theorem recallHeader_length (p : RecallPacket) : (recallHeader p).length = 18 := by simp [recallHeader]

theorem recallTrailer_length (t : Trailer) : (recallTrailer t).length = 26 := by simp [recallTrailer]

theorem recallTail_length (p : RecallPacket) : (recallTail p).length = if p.trailer.isSome = true then 26 else 0 := by
  rw [recallTail]
  cases p.trailer with
  | none => rfl
  | some t => exact recallTrailer_length t

/-- The body of a RECALL as long as its header says gives its block record back (R159, R175). -/
theorem recallOf_bytes {p : RecallPacket} (h : p.wf = true) : recallOf (recallHeader p ++ p.payload ++ recallTail p) = some p := by
  simp only [RecallPacket.wf, Bool.and_eq_true, decide_eq_true_eq, beq_iff_eq] at h
  obtain ⟨hpayload, htrailer⟩ := h
  have length : (recallHeader p ++ (p.payload ++ recallTail p)).length = 18 + p.frames.toNat * p.channels.toNat * 3 +
      (if p.flags.getLsbD 1 = true then 26 else 0) := by
    rw [List.length_append, List.length_append, recallHeader_length, recallTail_length, htrailer, hpayload, Nat.add_assoc]
  obtain ⟨item, lane, seq, flags, frames, channels, rate, gap⟩ := recallHeader_fields p (p.payload ++ recallTail p)
  have body : (recallHeader p ++ (p.payload ++ recallTail p)).drop 18 = p.payload ++ recallTail p := List.drop_left' (recallHeader_length p)
  have payload : (p.payload ++ recallTail p).take (p.frames.toNat * p.channels.toNat * 3) = p.payload := List.take_left' hpayload
  have tail : (recallHeader p ++ (p.payload ++ recallTail p)).drop (18 + p.frames.toNat * p.channels.toNat * 3) = recallTail p := by
    rw [← List.drop_drop, body]
    exact List.drop_left' hpayload
  have trailer : (if p.flags.getLsbD 1 = true then some (trailerOf (recallTail p)) else none) = p.trailer := by
    rw [← htrailer, recallTail]
    cases p.trailer with
    | none => rfl
    | some t => exact congrArg some (trailerOf_recallTrailer t)
  rw [List.append_assoc]
  simp only [recallOf, item, lane, seq, flags, frames, channels, rate, gap, body, payload, tail, length, BitVec.ofNat_toNat, BitVec.setWidth_eq, trailer]
  exact if_pos (by simp; omega)

theorem recallOf_eq_none {body : List Byte} (h : body.length < 18 ∨ body.length ≠ 18 + field body 10 2 * field body 12 1 * 3 +
    (if (field body 9 1).testBit 1 = true then 26 else 0)) : recallOf body = none := by
  have last : (BitVec.ofNat 8 (field body 9 1)).getLsbD 1 = (field body 9 1).testBit 1 := by
    rw [BitVec.getLsbD_ofNat]; rfl
  unfold recallOf
  dsimp only
  rw [last]
  refine if_neg fun hlen => ?_
  simp only [Bool.and_eq_true, decide_eq_true_eq, beq_iff_eq] at hlen
  omega

/-! ### Words received one after the other -/

theorem exec_linkWord {s : State} (ha : s.awake = true) (w : BitVec 10) : exec (.linkWord w) s = .next (s.receiveWord (classify w)) :=
  running_of_awake ha fun s => s.receiveWord (classify w)

theorem receiveWords_cons {s : State} (ha : s.awake = true) (w : BitVec 10) (ws : List (BitVec 10)) :
    receiveWords (w :: ws) s = receiveWords ws (s.receiveWord (classify w)) := by
  unfold receiveWords
  rw [List.foldl_cons]
  dsimp only
  rw [exec_linkWord ha]

theorem State.broken_awake (s : State) : s.broken.awake = s.awake := by
  unfold State.broken
  split <;> rfl

theorem State.alignWord_idle (s : State) : s.alignWord .idle =
    if 64 ≤ s.rx.align + 1 then ({ s with rx := { s.rx with align := s.rx.align + 1 } } : State).enterUp
    else { s with rx := { s.rx with align := s.rx.align + 1 } } := rfl

theorem State.upWord_data (s : State) (b : Byte) :
    s.upWord (.data b) = { s with rx := { s.rx with run := 0, packet := s.rx.packet.map fun bs => bs ++ [b] } } := rfl

theorem State.upWord_stop {s : State} {bytes : List Byte} (h : s.rx.packet = some bytes) :
    s.upWord .stop = ({ s with rx := { s.rx with run := 0, packet := none } } : State).receivePacket bytes := by
  simp only [State.upWord, h]

/-- The data words and the end word of a packet whose start word has come, on a link that is UP (R159). -/
theorem receiveWords_data {s : State} {bytes : List Byte} (ha : s.awake = true) (hup : s.rx.state = .up) (hp : s.rx.packet = some bytes) (bs : List Byte) :
    receiveWords (bs.map dataWord ++ [0x25D#10]) s =
      .next (({ s with rx := { s.rx with run := 0, packet := none } } : State).receivePacket (bytes ++ bs)) := by
  induction bs generalizing s bytes with
  | nil =>
    rw [List.map_nil, List.nil_append, receiveWords_cons ha, State.receiveWord_up hup, show classify 0x25D#10 = .stop from rfl,
      State.upWord_stop hp, List.append_nil]
    rfl
  | cons b bs ih =>
    have e : bytes ++ b :: bs = bytes ++ [b] ++ bs := by simp
    rw [List.map_cons, List.cons_append, receiveWords_cons ha, State.receiveWord_up hup, classify_data, State.upWord_data, hp, e]
    exact ih (s := { s with rx := { s.rx with run := 0, packet := some (bytes ++ [b]) } }) ha hup rfl

/-- The eighth unrecognised word in a row takes the link DOWN (R157, R158). -/
theorem State.upWord_unrecognised_linkLeaves {s : State} (h : s.rx.run = 7) : s.LinkLeaves (s.upWord .unrecognised) := by
  have eighth : s.upWord .unrecognised = ({ s.broken with rx := { s.rx with run := 8, packet := none } } : State).leaveUp := by
    simp only [State.upWord, State.breakPacket_self, h]
    rfl
  have leaves := State.leaveUp_linkLeaves { s.broken with rx := { s.rx with run := 8, packet := none } }
  rw [eighth]
  refine leaves.trans ?_
  cases hp : s.rx.packet with
  | none => rw [State.broken_of_none hp]
  | some bytes => rw [State.broken_of_some hp] <;> rfl

/-- A link that is not UP, after a word that is no idle word: its alignment starts again, where there is a signal (R157). -/
def State.realigned (s : State) : State :=
  if s.rx.state = .down ∧ s.rx.signal = false then s else { s with rx := { s.rx with state := .aligning, align := 0 } }

theorem State.realigned_awake (s : State) : s.realigned.awake = s.awake := by
  unfold State.realigned
  split <;> rfl

theorem State.receiveWord_of_not_up {s : State} {w : LinkWord} (hup : s.rx.state ≠ .up) (hw : w ≠ .idle) : s.receiveWord w = s.realigned := by
  unfold State.receiveWord State.realigned
  split
  case h_1 h => exact absurd h hup
  case h_2 h =>
    rw [State.alignWord, if_neg hw, if_neg (by rw [h]; exact fun hd => LinkState.noConfusion hd.1), ← h]
  case h_3 h =>
    by_cases hs : s.rx.signal = true
    · rw [if_pos hs, State.alignWord, if_neg hw, if_neg fun hd => by simp [hs] at hd]
    · rw [if_neg hs, if_pos ⟨h, Bool.eq_false_iff.mpr hs⟩]

theorem State.realigned_not_up {s : State} (hup : s.rx.state ≠ .up) : s.realigned.rx.state ≠ .up := by
  unfold State.realigned
  split
  · exact hup
  · exact LinkState.noConfusion

theorem State.realigned_realigned (s : State) : s.realigned.realigned = s.realigned := by
  by_cases h : s.rx.state = .down ∧ s.rx.signal = false
  · have stays : s.realigned = s := if_pos h
    rw [stays, stays]
  · have moved : s.realigned = { s with rx := { s.rx with state := .aligning, align := 0 } } := if_neg h
    rw [moved]
    exact if_neg fun hd => LinkState.noConfusion hd.1

theorem receiveWords_realigned {s : State} (ha : s.awake = true) (hup : s.rx.state ≠ .up) {ws : List (BitVec 10)} (hws : ∀ w ∈ ws, classify w ≠ .idle) :
    receiveWords ws s.realigned = .next s.realigned := by
  induction ws with
  | nil => rfl
  | cons w ws ih =>
    obtain ⟨hw, hws⟩ := List.forall_mem_cons.mp hws
    rw [receiveWords_cons (s.realigned_awake.trans ha), State.receiveWord_of_not_up (State.realigned_not_up hup) hw, State.realigned_realigned, ih hws]

/-- A packet's words have the effect of the packet received whole (R159; log 22). -/
theorem receiveWords_packetWords {s : State} (ha : s.awake = true) (bytes : List Byte) :
    receiveWords (packetWords bytes) s = .next (s.wholePacket fun t => t.receivePacket bytes) := by
  have start : classify 0x25B#10 = .start := rfl
  rw [packetWords, List.append_assoc, List.singleton_append, receiveWords_cons ha, start]
  by_cases hup : s.rx.state = .up
  · have begun := s.broken_awake.trans ha
    rw [State.receiveWord_up hup, State.upWord_start, State.wholePacket_of_up hup]
    exact receiveWords_data (s := { s.broken with rx := { s.rx with run := 0, packet := some [] } }) (bytes := []) begun hup rfl bytes
  · have others : ∀ w ∈ bytes.map dataWord ++ [0x25D#10], classify w ≠ .idle := by
      simp only [List.mem_append, List.mem_map, List.mem_singleton]
      rintro w (⟨b, -, rfl⟩ | rfl)
      · rw [classify_data]; exact LinkWord.noConfusion
      · decide
    have whole : (s.wholePacket fun t => t.receivePacket bytes) = s.realigned := by
      rw [State.wholePacket, State.receiveWord_of_not_up hup LinkWord.noConfusion]
      exact if_neg (by simp [State.linkUp, State.realigned_not_up hup])
    rw [whole, State.receiveWord_of_not_up hup LinkWord.noConfusion, receiveWords_realigned ha hup others]

theorem receiveWords_eq_running {s : State} (ha : s.awake = true) {bytes : List Byte} {dispatch : State → State}
    (h : ∀ t : State, t.receivePacket bytes = dispatch t) : receiveWords (packetWords bytes) s = running s fun s => s.wholePacket dispatch := by
  rw [receiveWords_packetWords ha, running_of_awake ha, funext h]

theorem execRecallPacket_of_wf {p : RecallPacket} (h : p.wf = true) (s : State) :
    exec (.recallPacket p) s = running s fun s => s.wholePacket fun s => s.receiveRecall p := by
  simp only [RecallPacket.wf, Bool.and_eq_true, decide_eq_true_eq, beq_iff_eq] at h
  have whole (t : State) : (if p.payload.length = p.frames.toNat * p.channels.toNat * 3 ∧ p.trailer.isSome = packetLast p then t.receiveRecall p
    else t.countMalformed) = t.receiveRecall p := if_pos h
  exact congrArg (fun d => running s fun s => s.wholePacket d) (funext whole)

theorem execCommandPacket_of_le {ps : List Byte} (h : ps.length ≤ 47) (tag : BitVec 16) (code : Byte) (s : State) :
    exec (.commandPacket tag code ps) s = running s fun s => s.wholePacket fun s => s.receiveCommand ⟨tag, code, ps⟩ := by
  have whole (t : State) : (if ps.length ≤ 47 then t.receiveCommand ⟨tag, code, ps⟩ else t.countMalformed) = t.receiveCommand ⟨tag, code, ps⟩ := if_pos h
  exact congrArg (fun d => running s fun s => s.wholePacket d) (funext whole)

end Sys2Proof.Machine

namespace Sys2Proof.Proofs
open Sys2Proof.Machine

/-- Settles O49: the start word begins the packet, each data word joins it, and the end word tests and dispatches it. -/
theorem packetsByWords : Obligations.PacketsByWords := by
  intro s ha
  refine ⟨fun tag code ps hlen => ?_, fun g => ?_, fun p hp => ?_⟩
  · rw [execCommandPacket_of_le hlen]
    exact receiveWords_eq_running ha fun t => State.receivePacket_command hlen
  · exact receiveWords_eq_running ha fun t => State.receivePacket_gate
  · have whole (tail : List Byte) (ht : recallTail p = tail) : receiveWords (packetWords (withCheck ([0x05] ++ be 4 p.item.toNat ++ [p.lane] ++
        be 4 p.seq.toNat ++ [p.flags] ++ be 2 p.frames.toNat ++ [p.channels, p.rate] ++ be 4 p.gap.toNat ++ p.payload ++ tail))) s =
        exec (.recallPacket p) s := by
      rw [← ht, execRecallPacket_of_wf hp]
      exact receiveWords_eq_running ha fun t => State.receivePacket_recall (recallOf_bytes hp)
    refine whole _ ?_
    unfold recallTail
    cases p.trailer <;> rfl

/-- Settles O47, by the link state and the class of the word. -/
theorem linkWord : Obligations.LinkWord := by
  intro s w ha
  have word := exec_linkWord ha w
  dsimp only
  rw [word]
  refine ⟨fun hd hs => ?_, fun hd hs => ?_, fun hal => ?_, fun hup => ?_⟩
  · rw [State.receiveWord, hd, hs]
    rfl
  · rw [exec_linkWord (s := { s with rx := { s.rx with state := .aligning, align := 0 } }) ha, State.receiveWord, hd, hs]
    rfl
  · have aligning : s.receiveWord (classify w) = s.alignWord (classify w) := by rw [State.receiveWord, hal]
    rw [aligning]
    have idleClass : classify 0x23C#10 = .idle := rfl
    refine ⟨fun hw => ?_, ?_, ?_⟩
    · exact congrArg Host.Outcome.next (if_neg fun h => hw (classify_eq_idle h))
    · rintro rfl hlt
      rw [idleClass, State.alignWord_idle, if_neg (Nat.not_le.mpr hlt)]
    · rintro rfl h63
      rw [idleClass, State.alignWord_idle, h63]
      rfl
  · rw [State.receiveWord_up hup]
    refine ⟨?_, ?_, ?_, ?_, ?_, ?_, ?_⟩
    · rintro rfl
      exact congrArg Host.Outcome.next State.upWord_idle
    · rintro rfl
      exact congrArg Host.Outcome.next State.upWord_start
    · rintro b rfl
      rw [classify_data, State.upWord_data]
    · rintro rfl hp
      show Host.Outcome.next (s.upWord .stop) = _
      simp only [State.upWord, hp]
    · rintro rfl bytes hp
      have stop : s.upWord (classify 0x25D#10) = ({ s with rx := { s.rx with run := 0, packet := none } } : State).receivePacket bytes := State.upWord_stop hp
      have idle : ({ s with rx := { s.rx with run := 0, packet := none } } : State).receiving = true := by
        simp [State.receiving, State.linkUp, hup]
        exact ha
      have whole (d : State → State) := (running_of_receiving idle fun s => s.wholePacket d).trans (congrArg Host.Outcome.next (State.wholePacket_of_receiving idle d))
      rw [stop]
      refine ⟨fun h => ?_, ?_⟩
      · rw [State.receivePacket_rejected h, State.countMalformed_eq]
      · rintro kind rest rfl
        refine ⟨fun h1 h5 h6 => ?_, ?_, ?_, ?_, ?_, ?_, ?_⟩
        · rw [State.receivePacket_unknown h1 h5 h6, State.countMalformed_eq]
        · rintro rfl h
          rw [State.receivePacket_command_rejected (by simp [withCheck_length] at h; omega), State.countMalformed_eq]
        · rintro rfl tag code ps rfl h
          have hlen : ps.length ≤ 47 := by simp [withCheck_length] at h; omega
          rw [State.receivePacket_command hlen, execCommandPacket_of_le hlen, whole]
        · rintro rfl h
          rw [State.receivePacket_gate_rejected h, State.countMalformed_eq]
        · rintro g rfl rfl
          rw [State.receivePacket_gate]
          exact (whole fun t => t.receiveGate g).symm
        · rintro rfl h
          rw [State.receivePacket_recall_rejected (recallOf_eq_none h), State.countMalformed_eq]
        · rintro p rfl hp hrest
          have bytes : rest = recallHeader p ++ p.payload ++ recallTail p := by
            rw [hrest, recallTail]
            cases p.trailer <;> rfl
          rw [bytes, State.receivePacket_recall (recallOf_bytes hp), execRecallPacket_of_wf hp, whole]
    · intro hw hlt
      rw [classify_unrecognised hw, State.upWord_unrecognised hlt]
      rfl
    · intro hw h7
      rw [classify_unrecognised hw]
      exact ⟨_, rfl, State.upWord_unrecognised_linkLeaves h7⟩

end Sys2Proof.Proofs

/-! What a RECALL makes of its route and of the monitor port of its sink (R136-R145, R151-R154). -/

namespace Sys2Proof.Machine

/-! ### The block record of a packet -/

/-- The format of a block record of packets `p` with a rate code and channels in their ranges, in the words of R140. -/
def FormatOf (f : Format) (p : RecallPacket) : Prop := f.rate.val = p.rate.toNat ∧ f.channels.count = p.channels.toNat

theorem Channels.ofCode_count (c : Channels) : Channels.ofCode c.count = some c := by cases c <;> rfl

theorem packetFormat_of_formatOf {f : Format} {p : RecallPacket} (h : FormatOf f p) : packetFormat p = some f := by
  obtain ⟨hrate, hchannels⟩ := h
  have rate : rateOfNat p.rate.toNat = some f.rate := by
    rw [← hrate]
    exact dif_pos f.rate.isLt
  rw [packetFormat, rate, ← hchannels, Channels.ofCode_count]

theorem formatOf_of_packetFormat {f : Format} {p : RecallPacket} (h : packetFormat p = some f) : FormatOf f p := by
  refine ⟨?_, (packetFormat_channels h).symm⟩
  unfold packetFormat at h
  split at h
  case h_1 rate channels hr hc =>
    unfold rateOfNat at hr
    split at hr
    · rw [← Option.some.inj h, ← Option.some.inj hr]
    · exact nomatch hr
  case h_2 => exact nomatch h

theorem packetFormat_isSome (p : RecallPacket) : (packetFormat p).isSome = true ↔ p.rate.toNat ≤ 5 ∧ (p.channels = 1 ∨ p.channels = 2) := by
  have channels : (p.channels = 1 ∨ p.channels = 2) ↔ p.channels.toNat = 1 ∨ p.channels.toNat = 2 := by
    simp only [← BitVec.toNat_inj]
    rfl
  rw [Option.isSome_iff_exists, channels]
  refine ⟨fun ⟨f, hf⟩ => ?_, fun ⟨hrate, hchannels⟩ => ?_⟩
  · obtain ⟨hrate, hchannels⟩ := formatOf_of_packetFormat hf
    rw [← hrate, ← hchannels]
    refine ⟨by omega, ?_⟩
    cases f.channels
    · exact .inl rfl
    · exact .inr rfl
  · have rate : p.rate.toNat < 6 := by omega
    obtain h1 | h2 := hchannels
    · exact ⟨⟨⟨_, rate⟩, .one⟩, packetFormat_of_formatOf ⟨rfl, h1.symm⟩⟩
    · exact ⟨⟨⟨_, rate⟩, .two⟩, packetFormat_of_formatOf ⟨rfl, h2.symm⟩⟩

theorem recordWellFormed_iff (p : RecallPacket) : recordWellFormed p = true ↔ p.Consistent := by
  have trailer : (!packetLast p || match p.trailer with
      | some t => trailerWellFormed t
      | none => false) = true ↔ (p.flags.getLsbD 1 = true → ∃ t, p.trailer = some t ∧ 1 ≤ t.reason.toNat ∧ t.reason.toNat ≤ 10 ∧
        1 ≤ t.segments.toNat ∧ t.segments.toNat ≤ 8 ∧ t.lost.toNat ≤ t.length.toNat) := by
    rw [packetLast]
    cases p.flags.getLsbD 1 <;> cases p.trailer <;> simp [trailerWellFormed, and_assoc]
  have frames : p.frames.toNat = 0 ↔ p.frames = 0 := by
    rw [← BitVec.toNat_inj]
    rfl
  unfold recordWellFormed RecallPacket.Consistent
  rw [Bool.and_eq_true]
  refine (and_congr Iff.rfl trailer).trans ?_
  rw [Bool.and_eq_true, Bool.and_eq_true, packetFormat_isSome]
  simp only [Bool.or_eq_true, Bool.and_eq_true, decide_eq_true_eq, beq_iff_eq, packetLast, frames, and_assoc]

theorem packetFormat_of_consistent {p : RecallPacket} (h : p.Consistent) : ∃ f, packetFormat p = some f ∧ FormatOf f p := by
  obtain ⟨f, hf⟩ := Option.isSome_iff_exists.mp ((packetFormat_isSome p).mpr ⟨h.1, h.2.1⟩)
  exact ⟨f, hf, formatOf_of_packetFormat hf⟩

/-! ### The tests at the route -/

section
variable {t : Route} {p : RecallPacket}

theorem Route.fault_eq (t : Route) (c : Cause) :
    t.fault c = { t with gaps := min 4294967295 (t.gaps + 1), cause := some (t.cause.getD c) } := by
  rw [Route.fault, sat_eq]
  rfl

theorem Route.sequence_eq (t : Route) (p : RecallPacket) : t.sequence p =
    if p.flags.getLsbD 0 = (p.seq == 0) then { (if t.next < p.seq.toNat then t.fault .gap else t) with next := p.seq.toNat + 1 }
    else ({ (if t.next < p.seq.toNat then t.fault .gap else t) with next := p.seq.toNat + 1 } : Route).fault .gap := by
  simp only [Route.sequence, packetFirst, beq_iff_eq]

/-- What the sequence and FIRST tests leave as it is (R139). -/
theorem Route.sequence_rest (t : Route) (p : RecallPacket) : t.sequence p =
    { t with next := p.seq.toNat + 1, gaps := (t.sequence p).gaps, cause := (t.sequence p).cause } := by
  rw [Route.sequence_eq]
  split <;> split <;> rfl

theorem Route.carry_check {room : Bool} (h : ¬p.Consistent) :
    t.carry p room = (({ t with badChecks := sat Config.count32 (t.badChecks + 1) } : Route).discard .check, .discarded) := by
  have bad : recordWellFormed p = false := Bool.eq_false_iff.mpr fun hc => h ((recordWellFormed_iff p).mp hc)
  unfold Route.carry
  rw [bad]
  cases packetFormat p <;> rfl

variable {f : Format} (hc : p.Consistent) (hf : FormatOf f p)
include hc hf

/-- A consistent packet at its route: a duplicate, or the sequence tests, then the format and the room (R138-R141). -/
theorem Route.carry_consistent (room : Bool) : t.carry p room =
    if p.seq.toNat < t.next then ({ t with duplicates := sat Config.count32 (t.duplicates + 1) }, .duplicate)
    else
      let u := if packetLast p then { t.sequence p with trailer := p.trailer } else t.sequence p
      if u.format.isSome && u.format != some f then (u.discard .format, .discarded)
      else if !room then (u.discard .overflow, .discarded)
      else (u.accept p f, .accepted) := by
  unfold Route.carry
  rw [packetFormat_of_formatOf hf, (recordWellFormed_iff p).mpr hc]

theorem Route.carry_duplicate {room : Bool} (h : p.seq.toNat < t.next) :
    t.carry p room = ({ t with duplicates := sat Config.count32 (t.duplicates + 1) }, .duplicate) := by
  rw [Route.carry_consistent hc hf, if_pos h]

end

/-- The route after the sequence tests of a packet, its trailer kept when it carries LAST (R139, R143). -/
def Route.tested (t : Route) (p : RecallPacket) : Route :=
  if packetLast p then { t.sequence p with trailer := p.trailer } else t.sequence p

theorem Route.tested_rest (t : Route) (p : RecallPacket) : t.tested p = { t with
    next := p.seq.toNat + 1, gaps := (t.sequence p).gaps, cause := (t.sequence p).cause
    trailer := if packetLast p then p.trailer else t.trailer } := by
  unfold Route.tested
  split
  · rw [Route.sequence_rest]
  · rw [Route.sequence_rest]

section
variable {t : Route} {p : RecallPacket} {f : Format} {room : Bool} (hc : p.Consistent) (hf : FormatOf f p) (hseq : t.next ≤ p.seq.toNat)
include hc hf hseq

theorem Route.carry_tested : t.carry p room =
    if t.format.isSome && t.format != some f then ((t.tested p).discard .format, .discarded)
    else if !room then ((t.tested p).discard .overflow, .discarded)
    else ((t.tested p).accept p f, .accepted) := by
  have format : (t.tested p).format = t.format := by rw [Route.tested_rest]
  rw [Route.carry_consistent hc hf, if_neg (Nat.not_lt.mpr hseq), ← format]
  rfl

theorem Route.carry_format {g : Format} (hg : t.format = some g) (h : g.rate.val ≠ p.rate.toNat ∨ g.channels.count ≠ p.channels.toNat) :
    t.carry p room = ((t.tested p).discard .format, .discarded) := by
  have other : g ≠ f := by
    rintro rfl
    exact h.elim (fun h => h hf.1) fun h => h hf.2
  rw [Route.carry_tested hc hf hseq, if_pos (by simp [hg, other])]

/-- The route's format stands, or the packet is its first. -/
theorem Route.carry_fits (hg : ∀ g, t.format = some g → FormatOf g p) : t.carry p room =
    if room then ((t.tested p).accept p f, .accepted) else ((t.tested p).discard .overflow, .discarded) := by
  have same : ¬(t.format.isSome && t.format != some f) = true := by
    cases ht : t.format with
    | none => simp
    | some g =>
      have : some g = some f := (packetFormat_of_formatOf (hg g ht)).symm.trans (packetFormat_of_formatOf hf)
      simp [this]
  rw [Route.carry_tested hc hf hseq, if_neg same]
  cases room <;> rfl

end

theorem Route.outcome_of_gaps {t : Route} (h : t.gaps ≠ 0) : t.outcome = (.incomplete, t.cause) := if_pos (Nat.pos_of_ne_zero h)

/-- The outcome of a route without a fault, by its trailer (R143). -/
theorem Route.outcome_of_trailer {t : Route} (hg : t.gaps = 0) {tr : Trailer} (ht : t.trailer = some tr) : t.outcome =
    if t.frames ≠ tr.length.toNat - tr.lost.toNat then (.incomplete, some .count)
    else if t.crc ^^^ 0xFFFFFFFF#32 ≠ tr.digest then (.mismatch, some .digest)
    else if ∃ d, t.expected = some d ∧ d ≠ t.crc ^^^ 0xFFFFFFFF#32 then (.mismatch, some .expected)
    else (.verified, none) := by
  have digest : digestOf t.crc = t.crc ^^^ 0xFFFFFFFF#32 := rfl
  have expected : (t.expected.isSome && t.expected != some (t.crc ^^^ 0xFFFFFFFF#32)) = true ↔
      ∃ d, t.expected = some d ∧ d ≠ t.crc ^^^ 0xFFFFFFFF#32 := by
    cases t.expected <;> simp
  unfold Route.outcome
  rw [if_neg (by omega), ht, digest]
  simp only [expected]

/-! ### The frames and the word that a port gets -/

/-- Frames joined to a FIFO: they may start the playing and bring the pace to HOLD (R152, R154). -/
theorem Monitor.joined_eq (m : Monitor) (frames : List Pair) : (({ m with fifo := m.fifo ++ frames } : Monitor).startPlaying).paceUp = { m with
    fifo := m.fifo ++ frames
    state := if (m.state = .filling ∨ m.state = .starved) ∧ 2048 ≤ (m.fifo ++ frames).length then .playing else m.state
    pace := if 6144 ≤ (m.fifo ++ frames).length then .hold else m.pace } := by
  have started : (({ m with fifo := m.fifo ++ frames } : Monitor).startPlaying) = { m with
      fifo := m.fifo ++ frames
      state := if (m.state = .filling ∨ m.state = .starved) ∧ 2048 ≤ (m.fifo ++ frames).length then .playing else m.state } := by
    simp only [Monitor.startPlaying, Bool.and_eq_true, Bool.or_eq_true, beq_iff_eq, decide_eq_true_eq]
    split <;> rfl
  rw [started, Monitor.paceUp]
  dsimp only
  split <;> rfl

theorem Monitor.append_same {m : Monitor} {r : RouteId} (format : Format) (frames : List Pair) (h : m.ref.map RouteRef.route = some r) :
    m.append r format frames = (({ m with fifo := m.fifo ++ frames } : Monitor).startPlaying).paceUp := by
  obtain ⟨ref, href, hr⟩ := Option.map_eq_some_iff.mp h
  simp [Monitor.append, href, hr]

theorem Monitor.append_other {m : Monitor} {r : RouteId} (format : Format) (frames : List Pair) (h : m.ref.map RouteRef.route ≠ some r) :
    m.append r format frames = (({ m with fifo := [] ++ frames, ref := some ⟨r, format, false⟩, pace := .go, state := .filling } : Monitor).startPlaying).paceUp := by
  unfold Monitor.append
  cases href : m.ref with
  | none => rfl
  | some ref =>
    have other : (ref.route == r) = false := by simpa [href] using h
    simp only [other, Monitor.flush_eq]
    rfl

theorem Monitor.append_appends (m : Monitor) (r : RouteId) (format : Format) {frames : List Pair} (h : frames ≠ []) :
    m.Appends (m.append r format frames) r format frames := by
  refine ⟨fun e => absurd e h, fun _ => ?_⟩
  by_cases same : m.ref.map RouteRef.route = some r
  · rw [Monitor.append_same format frames same, Monitor.joined_eq]
    simp [same]
  · have joined := Monitor.joined_eq { m with fifo := [], ref := some ⟨r, format, false⟩, pace := .go, state := .filling } frames
    rw [Monitor.append_other format frames same]
    rw [show (({ m with fifo := [] ++ frames, ref := some ⟨r, format, false⟩, pace := .go, state := .filling } : Monitor).startPlaying).paceUp = _ from joined]
    simp [same]

theorem Monitor.routeFinal_pace (m : Monitor) (r : RouteId) : (m.routeFinal r).pace = m.pace := by
  unfold Monitor.routeFinal
  split
  · split
    · dsimp only
      split
      · rfl
      · split <;> rfl
      · rfl
    · rfl
  · rfl

theorem Monitor.routeFinal_toldFinal (m : Monitor) (r : RouteId) : m.ToldFinal (m.routeFinal r) r := by
  refine ⟨fun h => ?_, fun f hs hf hr => ?_⟩
  · unfold Monitor.routeFinal
    split
    case h_1 ref hs href =>
      refine if_neg fun hr => ?_
      simp [hs, href, hr] at h
    case h_2 => rfl
  · have told : m.routeFinal r = match m.state with
        | .filling => { m with ref := some { f with final := true }, state := .playing }
        | .starved => if m.fifo.isEmpty then { m with ref := none, state := .silent } else { m with ref := some { f with final := true }, state := .playing }
        | _ => { m with ref := some { f with final := true } } := by
      unfold Monitor.routeFinal
      rw [hs, hf]
      exact if_pos hr
    rw [told]
    refine ⟨?_, fun hst he => ?_, fun hfill hstarve => ?_⟩
    · rintro (hst | ⟨hst, hne⟩)
      · rw [hst]
      · rw [hst]
        exact if_neg (by simpa using hne)
    · rw [hst]
      exact if_pos (by simp [he])
    · cases hst : m.state <;> simp_all

end Sys2Proof.Machine

namespace Sys2Proof.Machine

/-! ### The recall unit -/

/-- From `s` to `u` the monitor ports alone have changed, and a changed pace state has made a PACE ready (R154). -/
def State.Retuned (s u : State) : Prop :=
  u = { s with
    monA := u.monA
    monB := u.monB
    tx := { s.tx with paceReady := s.tx.paceReady || u.monA.pace != s.monA.pace || u.monB.pace != s.monB.pace } }

theorem State.Retuned.refl (s : State) : s.Retuned s := by simp [State.Retuned]

theorem State.setMonitor_retuned (s : State) (id : MonitorId) (m : Monitor) : s.Retuned (s.setMonitor id m) := by
  cases id <;> simp [State.Retuned, State.setMonitor, State.monitor]

section
variable {s : State} {r : RouteId} {t : Route}

theorem State.playingPort_eq_some {id : MonitorId} : s.playingPort t = some id ↔ t.sink.port = some id ∧ (s.monitor id).source = .routed := by
  rw [State.playingPort, Option.filter_eq_some_iff, beq_iff_eq]

/-- No port plays the frames of this route: either its sink names none, or that port's source is not ROUTED. -/
theorem State.playingPort_eq_none : s.playingPort t = none ↔ ∀ id, t.sink.port = some id → (s.monitor id).source ≠ .routed := by
  rw [Option.eq_none_iff_forall_ne_some]
  exact forall_congr' fun id => by rw [Ne, State.playingPort_eq_some, not_and]

theorem State.appendFrames_retuned (p : RecallPacket) : s.Retuned (s.appendFrames r t p) := by
  unfold State.appendFrames
  split
  · split
    · exact .refl s
    · exact s.setMonitor_retuned ..
  · exact .refl s

theorem State.appendFrames_other {p : RecallPacket} {id : MonitorId} (h : t.sink.port ≠ some id ∨ (s.monitor id).source ≠ .routed) :
    (s.appendFrames r t p).monitor id = s.monitor id := by
  unfold State.appendFrames
  split
  case h_1 k f hk hf =>
    split
    · rfl
    · rw [State.monitor_setMonitor, if_neg]
      rintro rfl
      obtain ⟨hport, hsource⟩ := State.playingPort_eq_some.mp hk
      exact h.elim (fun h => h hport) fun h => h hsource
  case h_2 => rfl

theorem State.appendFrames_appends {p : RecallPacket} {f : Format} {id : MonitorId} (hf : t.format = some f)
    (hlen : (payloadFrames f.channels p.payload).length = p.frames.toNat) (hport : t.sink.port = some id) (hsource : (s.monitor id).source = .routed) :
    (s.monitor id).Appends ((s.appendFrames r t p).monitor id) r f (payloadFrames f.channels p.payload) := by
  have port : s.playingPort t = some id := State.playingPort_eq_some.mpr ⟨hport, hsource⟩
  have appended : s.appendFrames r t p = if p.frames.toNat = 0 then s
      else s.setMonitor id ((s.monitor id).append r f (payloadFrames f.channels p.payload)) := by
    rw [State.appendFrames, port, hf]
  rw [appended]
  by_cases hz : p.frames.toNat = 0
  · rw [if_pos hz]
    exact ⟨fun _ => rfl, fun h => absurd (List.length_eq_zero_iff.mp (hlen.trans hz)) h⟩
  · rw [if_neg hz, State.monitor_setMonitor, if_pos rfl]
    exact Monitor.append_appends _ r f fun e => hz (by rw [← hlen, e, List.length_nil])

variable {st : RouteState} {c : Option Cause}

theorem Monitor.routeFinal_of_not_routed {m : Monitor} (h : m.source ≠ .routed) : m.routeFinal r = m :=
  (m.routeFinal_toldFinal r).1 (.inl h)

theorem State.finishRoute_monitor (id : MonitorId) : (s.finishRoute r t st c).monitor id =
    if t.sink.port = some id then (s.monitor id).routeFinal r else s.monitor id := by
  have same (u : State) (k : MonitorId) (ha : u.monA = s.monA) (hb : u.monB = s.monB) : u.monitor k = s.monitor k := State.monitor_congr ha hb k
  unfold State.finishRoute
  dsimp only
  split
  case h_1 k hk =>
    rw [State.playingPort_congr (s := s) (t := t) (by rfl) (by rfl) rfl, State.playingPort_eq_some] at hk
    rw [State.monitor_setMonitor, hk.1]
    by_cases h : id = k
    · subst h
      rw [if_pos rfl, if_pos rfl]
      rfl
    · rw [if_neg h, if_neg fun e => h (Option.some.inj e).symm]
      rfl
  case h_2 hk =>
    rw [State.playingPort_congr (s := s) (t := t) (by rfl) (by rfl) rfl, State.playingPort_eq_none] at hk
    split
    · next hport => exact (Monitor.routeFinal_of_not_routed (hk id hport)).symm
    · rfl

theorem State.finishRoute_pace (id : MonitorId) : ((s.finishRoute r t st c).monitor id).pace = (s.monitor id).pace := by
  rw [State.finishRoute_monitor]
  split
  · exact Monitor.routeFinal_pace _ _
  · rfl

/-- A final state of a route (R144): its flag is raised, and its port is told; nothing else changes. -/
theorem State.finishRoute_eq : s.finishRoute r t st c = { s with
    routes := s.routes.set r (some { t with state := st, cause := c })
    events := (s.raise (.routeDone r)).events
    monA := (s.finishRoute r t st c).monA
    monB := (s.finishRoute r t st c).monB } := by
  unfold State.finishRoute
  dsimp only
  split
  case h_1 k hk =>
    cases k <;> simp [State.setMonitor, Monitor.routeFinal_pace] <;> exact ⟨rfl, rfl⟩
  case h_2 => rfl

end

/-! ### A RECALL at its route -/

theorem exec_recallPacket {s : State} {p : RecallPacket} (hr : s.receiving = true) (hw : p.wf = true) : exec (.recallPacket p) s =
    .next ((s.count fun n => { n with recalls := min 4294967295 (n.recalls + 1) }).recall p) := by
  rw [execRecallPacket_of_wf hw, running_of_receiving hr, State.wholePacket_of_receiving hr, State.receiveRecall]
  simp only [bump_eq]

theorem State.routeOf_none_of {s : State} {item : Item} (h : ∀ r t, s.route r = some t → t.item ≠ item) : s.routeOf item = none := by
  rw [← Option.not_isSome_iff_eq_none, State.routeOf_isSome_iff]
  rintro ⟨r, t, ht, hi⟩
  exact h r t ht hi

theorem State.recall_unrouted {s : State} {p : RecallPacket} (h : ∀ r t, s.route r = some t → t.item ≠ p.item) :
    s.recall p = s.raise (.device .recallUnrouted) p.item := by
  rw [State.recall, State.routeOf_none_of h]

section
variable {s : State} {p : RecallPacket} {r : RouteId} {t : Route} (hr : s.route r = some t) (hi : t.item = p.item)
  (hunique : ∀ q u, s.route q = some u → u.item = p.item → q = r)
include hr hi hunique

theorem State.routeOf_eq : s.routeOf p.item = some r := by
  obtain ⟨q, hq⟩ := Option.isSome_iff_exists.mp ((s.routeOf_isSome_iff p.item).mpr ⟨r, t, hr, hi⟩)
  have found := List.find?_some hq
  cases hu : s.route q with
  | none => simp [hu] at found
  | some u => rw [hq, hunique q u hu (by simpa [hu] using found)]

theorem State.recall_late (h : ¬(t.state = .waiting ∨ t.state = .receiving)) :
    s.recall p = s.setRoute r (some { t with late := min 4294967295 (t.late + 1) }) := by
  rw [State.recall, State.routeOf_eq hr hi hunique]
  dsimp only
  rw [hr]
  dsimp only
  rw [if_neg fun ha => h (t.active_iff.mp ha), sat_eq]
  rfl

variable (ha : t.state = .waiting ∨ t.state = .receiving) {t' : Route} {carried : Carried}
  (hc : t.carry p (s.roomFor r t p.frames.toNat) = (t', carried))
include ha hc

theorem State.recall_carried : s.recall p =
    if packetLast p && carried != .duplicate then
      (if carried = .accepted then (s.setRoute r (some t')).appendFrames r t' p else s.setRoute r (some t')).finishRoute r t' t'.outcome.1 t'.outcome.2
    else if carried = .accepted then (s.setRoute r (some t')).appendFrames r t' p else s.setRoute r (some t') := by
  rw [State.recall, State.routeOf_eq hr hi hunique]
  dsimp only
  rw [hr]
  dsimp only
  rw [if_pos (t.active_iff.mpr ha), hc]

/-- A packet that its route does not accept and that brings no outcome moves the route alone. -/
theorem State.recall_moved (hne : carried ≠ .accepted) (hlast : p.flags.getLsbD 1 = false ∨ carried = .duplicate) :
    s.recall p = s.setRoute r (some t') := by
  have goesOn : ¬(packetLast p && carried != .duplicate) = true := by
    obtain h | h := hlast
    · simp [show packetLast p = false from h]
    · simp [h]
  rw [State.recall_carried hr hi hunique ha hc, if_neg goesOn, if_neg hne]

theorem State.recall_discarded (hd : carried = .discarded) (hlast : p.flags.getLsbD 1 = true) :
    s.recall p = (s.setRoute r (some t')).finishRoute r t' t'.outcome.1 t'.outcome.2 := by
  subst hd
  rw [State.recall_carried hr hi hunique ha hc, if_pos (by simp [show packetLast p = true from hlast]), if_neg Carried.noConfusion]

theorem State.recall_accepted (hd : carried = .accepted) (hlast : p.flags.getLsbD 1 = false) :
    s.recall p = (s.setRoute r (some t')).appendFrames r t' p := by
  subst hd
  rw [State.recall_carried hr hi hunique ha hc, if_neg (by simp [show packetLast p = false from hlast]), if_pos rfl]

theorem State.recall_completed (hd : carried = .accepted) (hlast : p.flags.getLsbD 1 = true) :
    s.recall p = ((s.setRoute r (some t')).appendFrames r t' p).finishRoute r t' t'.outcome.1 t'.outcome.2 := by
  subst hd
  rw [State.recall_carried hr hi hunique ha hc, if_pos (by simp [show packetLast p = true from hlast]), if_pos rfl]

end

/-! ### Room in the port -/

theorem Monitor.hasRoom_iff (m : Monitor) (r : RouteId) (n : Nat) : m.hasRoom r n = true ↔ n = 0 ∨
    if m.ref = none ∨ m.ref.map RouteRef.route = some r then m.fifo.length + n ≤ 8192 else n ≤ 8192 := by
  have size : Config.fifoFrames = 8192 := rfl
  unfold Monitor.hasRoom
  rw [Bool.or_eq_true, beq_iff_eq, size]
  refine or_congr_right ?_
  cases m.ref with
  | none => simp
  | some ref => by_cases h : ref.route = r <;> simp [h]

section
variable {s : State} {r : RouteId} {t : Route} {id : MonitorId} {n : Nat}

theorem State.roomFor_full (hport : t.sink.port = some id) (hsource : (s.monitor id).source = .routed) (hn : n ≠ 0)
    (href : (s.monitor id).ref = none ∨ (s.monitor id).ref.map RouteRef.route = some r) (hfull : 8192 < (s.monitor id).fifo.length + n) :
    s.roomFor r t n = false := by
  rw [State.roomFor, State.playingPort_eq_some.mpr ⟨hport, hsource⟩]
  dsimp only
  rw [Bool.eq_false_iff, Ne, Monitor.hasRoom_iff, if_pos href]
  omega

/-- A port has room for a packet of a route that it holds no frames of (R138, R141). -/
theorem State.roomFor_of (hn : n ≤ 1024) (h : ∀ id, t.sink.port = some id → (s.monitor id).source = .routed → n ≠ 0 →
    (s.monitor id).ref = none ∨ (s.monitor id).ref.map RouteRef.route = some r → (s.monitor id).fifo.length + n ≤ 8192) :
    s.roomFor r t n = true := by
  unfold State.roomFor
  split
  case h_1 id hid =>
    obtain ⟨hport, hsource⟩ := State.playingPort_eq_some.mp hid
    rw [Monitor.hasRoom_iff]
    by_cases hz : n = 0
    · exact .inl hz
    · right
      split
      · next href => exact h id hport hsource hz href
      · omega
  case h_2 => rfl

end

theorem RecallPacket.frames_le {p : RecallPacket} (h : p.Consistent) : p.frames.toNat ≤ 1024 := by
  obtain ⟨-, -, -, ⟨-, hle⟩ | ⟨hz, -⟩, -⟩ := h
  · exact hle
  · rw [hz]
    decide

/-- A discarded packet (R137, R140). -/
theorem Route.discard_eq (t : Route) (c : Cause) : t.discard c = { t with
    discarded := min 4294967295 (t.discarded + 1), gaps := min 4294967295 (t.gaps + 1), cause := some (t.cause.getD c) } := by
  rw [Route.discard, Route.fault_eq, sat_eq]
  rfl

theorem Route.tested_of_first {t : Route} {p : RecallPacket} (h : p.flags.getLsbD 1 = false) : t.tested p = t.sequence p :=
  if_neg (by simp [show packetLast p = false from h])

theorem Route.sequence_discarded (t : Route) (p : RecallPacket) : (t.sequence p).discarded = t.discarded := by rw [Route.sequence_rest]

end Sys2Proof.Machine

namespace Sys2Proof.Proofs
open Sys2Proof.Machine

/-- Settles O40: the tests of R136 to R141 in their order. -/
theorem recallTurnedAway : Obligations.RecallTurnedAway := by
  intro s p hrecv hw counted becomes up
  have run : exec (.recallPacket p) s = .next (counted.recall p) := exec_recallPacket hrecv hw
  refine ⟨fun h => run.trans (congrArg _ (State.recall_unrouted h)), ?_⟩
  intro r t hr hi hunique fault moved
  have becomes_of {u : State} (h : counted.recall p = u) : becomes u := run.trans (congrArg _ h)
  have hmoved : moved t = t.sequence p := by
    rw [Route.sequence_eq]
    simp only [Route.fault_eq]
    rfl
  refine ⟨fun hnw hnr => becomes_of (State.recall_late (s := counted) hr hi hunique (by tauto)), fun ha => ⟨fun hbad hlast => ?_, fun hc hlt => ?_, fun hc hle hlast => ?_⟩⟩
  · refine becomes_of ((State.recall_moved (s := counted) hr hi hunique ha (Route.carry_check hbad) Carried.noConfusion (.inl hlast)).trans ?_)
    rw [Route.discard_eq, sat_eq]
    rfl
  · obtain ⟨f, -, hf⟩ := packetFormat_of_consistent hc
    refine becomes_of ((State.recall_moved (s := counted) hr hi hunique ha (Route.carry_duplicate hc hf hlt) Carried.noConfusion (.inr rfl)).trans ?_)
    rw [sat_eq]
    rfl
  · obtain ⟨f, -, hf⟩ := packetFormat_of_consistent hc
    have discarded (c : Cause) : (t.tested p).discard c = fault { moved t with discarded := up t.discarded } c := by
      rw [hmoved, Route.tested_of_first hlast, Route.discard_eq, Route.sequence_discarded]
    refine ⟨fun g hg hne => ?_, fun hg id hport hsource hn hfull => ?_⟩
    · rw [← discarded]
      exact becomes_of (State.recall_moved (s := counted) hr hi hunique ha (Route.carry_format hc hf hle hg hne) Carried.noConfusion (.inl hlast))
    · have full : counted.roomFor r t p.frames.toNat = false := State.roomFor_full (s := counted) hport hsource hn hfull.1 hfull.2
      rw [← discarded]
      refine becomes_of (State.recall_moved (s := counted) hr hi hunique ha (carried := .discarded) ?_ Carried.noConfusion (.inl hlast))
      rw [Route.carry_fits hc hf hle hg, full]
      rfl

end Sys2Proof.Proofs

namespace Sys2Proof.Machine

/-- What an accepted packet adds to its route (R141). -/
theorem Route.accept_eq (t : Route) (p : RecallPacket) (f : Format) : t.accept p f = { t with
    crc := crc32 t.crc p.payload
    frames := min 1099511627775 (t.frames + p.frames.toNat)
    blocks := min 4294967295 (t.blocks + 1)
    format := some (t.format.getD f)
    state := if p.flags.getLsbD 1 = true then t.state else .receiving } := by
  rw [Route.accept, sat_eq, sat_eq]
  rfl

/-- The gaps and the cause that the sequence and FIRST tests leave (R139). -/
theorem Route.sequence_gaps (t : Route) (p : RecallPacket) :
    let jump := if t.next < p.seq.toNat then 1 else 0
    let first := if p.flags.getLsbD 0 = (p.seq == 0) then 0 else 1
    (jump + first = 0 → (t.sequence p).gaps = t.gaps ∧ (t.sequence p).cause = t.cause) ∧
      (jump + first ≠ 0 → t.gaps + 2 ≤ 4294967295 → (t.sequence p).gaps = t.gaps + jump + first) ∧
      (jump + first ≠ 0 → (t.sequence p).cause = some (t.cause.getD .gap)) := by
  dsimp only
  rw [Route.sequence_eq]
  by_cases hfirst : p.flags.getLsbD 0 = (p.seq == 0)
  · by_cases hjump : t.next < p.seq.toNat
    · simp only [hfirst, hjump, if_true, Route.fault_eq]
      exact ⟨by omega, fun _ _ => by omega, fun _ => trivial⟩
    · simp only [hfirst, hjump, if_true, if_false]
      exact ⟨fun _ => ⟨trivial, trivial⟩, by omega, by omega⟩
  · by_cases hjump : t.next < p.seq.toNat
    · simp only [hfirst, hjump, if_true, if_false, Route.fault_eq]
      exact ⟨by omega, fun _ _ => by omega, fun _ => rfl⟩
    · simp only [hfirst, hjump, if_false, Route.fault_eq]
      exact ⟨by omega, fun _ _ => by omega, fun _ => trivial⟩

theorem State.route_appendFrames (s : State) (r : RouteId) (t : Route) (p : RecallPacket) (q : RouteId) : (s.appendFrames r t p).route q = s.route q :=
  State.route_congr (State.appendFrames_routes s r t p) q

theorem State.route_finishRoute (s : State) (r : RouteId) (t : Route) (st : RouteState) (c : Option Cause) (q : RouteId) :
    (s.finishRoute r t st c).route q = if q = r then some { t with state := st, cause := c } else s.route q :=
  (State.route_congr (State.finishRoute_routes s r t st c) q).trans (State.route_setRoute_eq s r q _)

/-- A final state of a route leaves all but its flag, the routes and the monitor ports as they are (R144). -/
theorem State.finishRoute_rest (s : State) (r : RouteId) (t : Route) (st : RouteState) (c : Option Cause) :
    let u := s.finishRoute r t st c
    u.events = (s.raise (.routeDone r)).events ∧ u.tx = s.tx ∧ u.lanes = s.lanes ∧ u.table = s.table ∧ u.memory = s.memory ∧ u.cmd = s.cmd ∧ u.rx = s.rx := by
  have e := s.finishRoute_eq (r := r) (t := t) (st := st) (c := c)
  exact ⟨(congrArg State.events e :), (congrArg State.tx e :), (congrArg State.lanes e :), (congrArg State.table e :),
    (congrArg State.memory e :), (congrArg State.cmd e :), (congrArg State.rx e :)⟩

theorem State.isSet_raise_self (s : State) (f : Flag) : (s.raise f).events.isSet f = true := by
  rw [State.isSet_raise]
  simp

theorem State.finishRoute_monitor_other {s : State} {r : RouteId} {t : Route} {st : RouteState} {c : Option Cause} {id : MonitorId}
    (h : t.sink.port ≠ some id ∨ (s.monitor id).source ≠ .routed) : (s.finishRoute r t st c).monitor id = s.monitor id := by
  rw [State.finishRoute_monitor]
  split
  · next hport => exact Monitor.routeFinal_of_not_routed (h.resolve_left fun hn => hn hport)
  · rfl

theorem State.finishRoute_toldFinal {s : State} {r : RouteId} {t : Route} {st : RouteState} {c : Option Cause} {id : MonitorId}
    (h : t.sink.port = some id) : (s.monitor id).ToldFinal ((s.finishRoute r t st c).monitor id) r := by
  rw [State.finishRoute_monitor, if_pos h]
  exact Monitor.routeFinal_toldFinal _ _

/-- The format that a route has once it has accepted a packet of the format `f` (R140, R141). -/
theorem Route.format_getD {t : Route} {p : RecallPacket} {f : Format} (hf : FormatOf f p) (hg : ∀ g, t.format = some g → FormatOf g p) :
    t.format.getD f = f := by
  cases ht : t.format with
  | none => rfl
  | some g => exact Option.some.inj ((packetFormat_of_formatOf (hg g ht)).symm.trans (packetFormat_of_formatOf hf))

theorem RecallPacket.frames_long {p : RecallPacket} (hw : p.wf = true) {f : Format} (hf : FormatOf f p) :
    (payloadFrames f.channels p.payload).length = p.frames.toNat := by
  simp only [RecallPacket.wf, Bool.and_eq_true, decide_eq_true_eq] at hw
  exact payloadFrames_length _ _ _ (hf.2 ▸ hw.1)

end Sys2Proof.Machine

namespace Sys2Proof.Proofs
open Sys2Proof.Machine

/-- Settles O41: the packet passes its tests, finds room, and is accepted. -/
theorem recallAccepted : Obligations.RecallAccepted := by
  intro s p r t hrecv hw hc hr hi hunique ha hle hlast hg hroom jump first
  obtain ⟨f, hpf, hf⟩ := packetFormat_of_consistent hc
  let counted : State := s.count fun n => { n with recalls := min 4294967295 (n.recalls + 1) }
  let t' : Route := (t.sequence p).accept p f
  let u : State := (counted.setRoute r (some t')).appendFrames r t' p
  have room : counted.roomFor r t p.frames.toNat = true :=
    State.roomFor_of (s := counted) (RecallPacket.frames_le hc) fun id hport hsource _ href => hroom id hport hsource href
  have carried : t.carry p (counted.roomFor r t p.frames.toNat) = (t', .accepted) := by
    rw [Route.carry_fits hc hf hle hg, room, if_pos rfl, Route.tested_of_first hlast]
  have run : exec (.recallPacket p) s = .next u :=
    (exec_recallPacket hrecv hw).trans (congrArg _ (State.recall_accepted (s := counted) hr hi hunique ha carried rfl hlast))
  have format : t.format.getD f = f := Route.format_getD hf hg
  have ht' : t' = { t with
      next := p.seq.toNat + 1, gaps := (t.sequence p).gaps, cause := (t.sequence p).cause, crc := crc32 t.crc p.payload
      frames := min 1099511627775 (t.frames + p.frames.toNat), blocks := min 4294967295 (t.blocks + 1), format := some f, state := .receiving } := by
    show (t.sequence p).accept p f = _
    rw [Route.accept_eq, Route.sequence_rest, hlast]
    dsimp only
    rw [format]
    rfl
  have long : (payloadFrames f.channels p.payload).length = p.frames.toNat := RecallPacket.frames_long hw hf
  have retuned : (counted.setRoute r (some t')).Retuned u := State.appendFrames_retuned p
  obtain ⟨same, jumped, caused⟩ := t.sequence_gaps p
  have routes (q : RouteId) : u.route q = if q = r then some t' else s.route q :=
    (State.route_appendFrames ..).trans (State.route_setRoute_eq counted r q (some t'))
  have sink : t'.sink = t.sink := by rw [ht']
  have formatted : t'.format = some f := by rw [ht']
  refine ⟨u, t', f, run, (routes r).trans (if_pos rfl), fun q hq => (routes q).trans (if_neg hq), ?_⟩
  have monitors (id : MonitorId) (h : t.sink.port ≠ some id ∨ (s.monitor id).source ≠ .routed) : u.monitor id = s.monitor id :=
    State.appendFrames_other (s := counted.setRoute r (some t')) (t := t') (by rw [sink]; exact h)
  have played (id : MonitorId) (hport : t.sink.port = some id) (hsource : (s.monitor id).source = .routed) :
      (s.monitor id).Appends (u.monitor id) r f (payloadFrames f.channels p.payload) :=
    State.appendFrames_appends (s := counted.setRoute r (some t')) formatted long (by rw [sink]; exact hport) hsource
  rw [ht']
  exact ⟨rfl, rfl, rfl, rfl, rfl, rfl, rfl, rfl, rfl, same, jumped, caused, rfl, rfl, rfl, rfl, rfl, rfl, hf.1, hf.2, long, monitors, played,
    (congrArg State.tx retuned :), (congrArg State.lanes retuned :), (congrArg State.table retuned :), (congrArg State.memory retuned :),
    (congrArg State.events retuned :), (congrArg State.cmd retuned :), (congrArg State.rx retuned :)⟩

/-- Settles O42, by R143's table and R145. -/
theorem recallOutcome : Obligations.RecallOutcome := by
  refine ⟨?_, ?_, ?_⟩
  · intro s p r t hrecv hw hr hi hunique ha hlast up fault moved counts reaches ends
    let counted : State := s.count fun n => { n with recalls := min 4294967295 (n.recalls + 1) }
    have run : exec (.recallPacket p) s = .next (counted.recall p) := exec_recallPacket hrecv hw
    have hmoved : moved = t.sequence p := by
      rw [Route.sequence_eq]
      simp only [Route.fault_eq]
      rfl
    let reset (t' : Route) : State := counted.setRoute r (some t')
    have reached {t' : Route} {v : State} {st : RouteState} {c : Option Cause} (hrec : counted.recall p = v.finishRoute r t' st c)
        (hv : (reset t').Retuned v) (sink : t'.sink = t.sink)
        (hmon : ∀ id, t.sink.port ≠ some id ∨ (s.monitor id).source ≠ .routed → v.monitor id = s.monitor id) : reaches (v.finishRoute r t' st c) := by
      obtain ⟨ev, -, lanes, table, memory, cmd, rx⟩ := v.finishRoute_rest r t' st c
      have sameEvents : v.events = s.events := (congrArg State.events hv :)
      have sameRx : v.rx = s.rx := (congrArg State.rx hv :)
      have sameRoutes (q : RouteId) (hq : q ≠ r) : v.route q = s.route q :=
        (State.route_congr (congrArg State.routes hv :) q).trans ((State.route_setRoute_eq counted r q (some t')).trans (if_neg hq))
      have raised : (v.raise (.routeDone r)).events = (s.raise (.routeDone r)).events := by
        simp only [State.raise, State.linkUp, sameEvents, sameRx]
      refine ⟨run.trans (congrArg _ hrec), ev.trans raised, ?_, fun q hq => ?_, lanes.trans (congrArg State.lanes hv :), table.trans (congrArg State.table hv :),
        memory.trans (congrArg State.memory hv :), cmd.trans (congrArg State.cmd hv :), rx.trans sameRx, fun id h => ?_⟩
      · rw [ev, raised]
        exact s.isSet_raise_self _
      · rw [State.route_finishRoute, if_neg hq, sameRoutes q hq]
      · have still := hmon id h
        rw [State.finishRoute_monitor_other (by rw [sink, still]; exact h), still]
    have discarded {t' : Route} (hcarry : t.carry p (counted.roomFor r t p.frames.toNat) = (t', .discarded)) (hgaps : t'.gaps ≠ 0) (sink : t'.sink = t.sink) :
        ends t' := by
      have hrec := State.recall_discarded (s := counted) hr hi hunique ha hcarry rfl hlast
      rw [Route.outcome_of_gaps hgaps] at hrec
      refine ⟨_, reached hrec (.refl _) sink fun id _ => rfl, (State.route_finishRoute ..).trans (if_pos rfl), ?_, fun id hport => ?_⟩
      · exact (State.finishRoute_rest ..).2.1
      · exact State.finishRoute_toldFinal (s := reset t') (sink ▸ hport)
    have faulted (t : Route) (c : Cause) : (fault t c).gaps ≠ 0 := by
      show min 4294967295 (t.gaps + 1) ≠ 0
      omega
    have tested : t.tested p = { moved with trailer := p.trailer } := by
      rw [hmoved]
      exact if_pos hlast
    have discardedAs (c : Cause) : (t.tested p).discard c = fault { moved with discarded := up t.discarded, trailer := p.trailer } c := by
      rw [tested, Route.discard_eq, hmoved]
      dsimp only
      rw [Route.sequence_discarded]
    have movedSink : moved.sink = t.sink := by rw [hmoved, Route.sequence_rest]
    refine ⟨fun hc hle tr htr hg hroom => ?_, fun hbad => ?_, fun hc hle => ⟨fun g hg hne => ?_, fun hg id hport hsource hn hfull => ?_⟩⟩
    · obtain ⟨f, -, hf⟩ := packetFormat_of_consistent hc
      let t' : Route := (t.tested p).accept p f
      let v : State := (reset t').appendFrames r t' p
      have room : counted.roomFor r t p.frames.toNat = true :=
        State.roomFor_of (s := counted) (RecallPacket.frames_le hc) fun id hport hsource hn href =>
          hroom id hport hsource (fun hz => hn (by rw [hz]; rfl)) href
      have carried : t.carry p (counted.roomFor r t p.frames.toNat) = (t', .accepted) := by
        rw [Route.carry_fits hc hf hle hg, room, if_pos rfl]
      have hrec : counted.recall p = v.finishRoute r t' t'.outcome.1 t'.outcome.2 :=
        State.recall_completed (s := counted) hr hi hunique ha carried rfl hlast
      have ht' : t' = { moved with
          crc := crc32 t.crc p.payload, frames := min 1099511627775 (t.frames + p.frames.toNat), blocks := up t.blocks
          format := some f, trailer := some tr } := by
        show (t.tested p).accept p f = _
        rw [Route.accept_eq, tested, hlast, htr, hmoved, Route.sequence_rest]
        dsimp only
        rw [Route.format_getD hf hg]
        rfl
      have sink : t'.sink = t.sink := by rw [ht', movedSink]
      have formatted : t'.format = some f := by rw [ht']
      have retuned : (reset t').Retuned v := State.appendFrames_retuned p
      have monitors (id : MonitorId) (h : t.sink.port ≠ some id ∨ (s.monitor id).source ≠ .routed) : v.monitor id = s.monitor id :=
        State.appendFrames_other (s := reset t') (t := t') (by rw [sink]; exact h)
      have pace (id : MonitorId) := State.finishRoute_pace (s := v) (r := r) (t := t') (st := t'.outcome.1) (c := t'.outcome.2) id
      refine ⟨_, t'.outcome.1, t'.outcome.2, f, reached hrec retuned sink monitors, hf.1, hf.2, ⟨?_, ?_⟩, ?_, fun id hport hsource => ⟨v.monitor id, ?_, ?_⟩⟩
      · rw [State.route_finishRoute, if_pos rfl, ht']
      · have gaps : t'.gaps = moved.gaps := by rw [ht']
        have crc : t'.crc = crc32 t.crc p.payload := by rw [ht']
        have frames : t'.frames = min 1099511627775 (t.frames + p.frames.toNat) := by rw [ht']
        have expected : t'.expected = t.expected := by rw [ht', hmoved, Route.sequence_rest]
        have judged (h : moved.gaps = 0) := Route.outcome_of_trailer (t := t') (gaps.trans h) (tr := tr) (by rw [ht'])
        rw [crc, frames, expected] at judged
        refine ⟨fun h => ?_, fun h hn => ?_, fun h hwhole hn => ?_, fun h hwhole hd hn => ?_, fun h hwhole hd he => ?_⟩
        · rw [Route.outcome_of_gaps (by rw [gaps]; exact h)]
          exact ⟨rfl, by rw [ht']⟩
        · rw [judged h, if_pos hn]
          exact ⟨rfl, rfl⟩
        · rw [judged h, if_neg (not_not.mpr hwhole), if_pos hn]
          exact ⟨rfl, rfl⟩
        · rw [judged h, if_neg (not_not.mpr hwhole), if_neg (not_not.mpr hd), if_pos hn]
          exact ⟨rfl, rfl⟩
        · have agrees : ¬∃ d, t.expected = some d ∧ d ≠ crc32 t.crc p.payload ^^^ 0xFFFFFFFF#32 := fun ⟨d, hd, hne⟩ => hne (he d hd)
          rw [judged h, if_neg (not_not.mpr hwhole), if_neg (not_not.mpr hd), if_neg agrees]
          exact ⟨rfl, rfl⟩
      · refine (State.finishRoute_rest v r t' _ _).2.1.trans ((congrArg State.tx retuned :).trans ?_)
        have paceA : (v.finishRoute r t' t'.outcome.1 t'.outcome.2).monA.pace = v.monA.pace := pace .a
        have paceB : (v.finishRoute r t' t'.outcome.1 t'.outcome.2).monB.pace = v.monB.pace := pace .b
        rw [paceA, paceB]
        rfl
      · exact State.appendFrames_appends (s := reset t') formatted (RecallPacket.frames_long hw hf) (sink ▸ hport) hsource
      · exact State.finishRoute_toldFinal (s := v) (sink ▸ hport)
    · refine discarded ((Route.carry_check hbad).trans ?_) (faulted _ _) rfl
      rw [Route.discard_eq, sat_eq]
      rfl
    · obtain ⟨f, -, hf⟩ := packetFormat_of_consistent hc
      refine discarded ((Route.carry_format hc hf hle hg hne).trans ?_) (faulted _ _) movedSink
      rw [discardedAs]
    · obtain ⟨f, -, hf⟩ := packetFormat_of_consistent hc
      have full : counted.roomFor r t p.frames.toNat = false := State.roomFor_full (s := counted) hport hsource hn hfull.1 hfull.2
      refine discarded ?_ (faulted _ _) movedSink
      rw [Route.carry_fits hc hf hle hg, full, ← discardedAs]
      rfl
  · intro s r t hawake hr
    have run : exec (.routeIdleTimeout r) s = .next (s.idleOut r) := running_of_awake hawake fun s => s.idleOut r
    have idleOut : s.idleOut r = if t.state = .receiving && 0 < t.idleLimit then s.finishRoute r t .incomplete (some .timeout) else s := by
      rw [State.idleOut, hr]
    rw [run, idleOut]
    refine ⟨fun hst hlim => ?_, fun h => ?_⟩
    · obtain ⟨ev, -, lanes, table, memory, -, -⟩ := s.finishRoute_rest r t .incomplete (some .timeout)
      rw [if_pos (by simp [hst]; omega)]
      refine ⟨_, rfl, (State.route_finishRoute ..).trans (if_pos rfl), ?_, fun q hq => (State.route_finishRoute ..).trans (if_neg hq), lanes, table, memory,
        fun id hport => State.finishRoute_monitor_other (.inl hport), fun id hport => State.finishRoute_toldFinal hport⟩
      rw [ev]
      exact s.isSet_raise_self _
    · rw [if_neg (by simpa using fun hs => h.resolve_left fun hn => hn hs)]
  · intro s r hawake hr
    have run : exec (.routeIdleTimeout r) s = .next (s.idleOut r) := running_of_awake hawake fun s => s.idleOut r
    rw [run, State.idleOut, hr]

end Sys2Proof.Proofs

/-! LANE_SET and LANE_RESET (R92-R94, R97). -/

namespace Sys2Proof.Machine

/-! ### The groups of LANE_SET -/

theorem SourceMode.ofCode_spec (n : Nat) : (SourceMode.ofCode n = none ∧ 1 < n) ∨ ∃ k, SourceMode.ofCode n = some k ∧ k.code = n ∧ n ≤ 1 := by
  match n with
  | 0 => exact .inr ⟨_, rfl, rfl, by decide⟩
  | 1 => exact .inr ⟨_, rfl, rfl, by decide⟩
  | n + 2 => exact .inl ⟨rfl, by omega⟩

theorem CueMode.ofCode_spec (n : Nat) : (CueMode.ofCode n = none ∧ 2 < n) ∨ ∃ k, CueMode.ofCode n = some k ∧ k.code = n ∧ n ≤ 2 := by
  match n with
  | 0 => exact .inr ⟨_, rfl, rfl, by decide⟩
  | 1 => exact .inr ⟨_, rfl, rfl, by decide⟩
  | 2 => exact .inr ⟨_, rfl, rfl, by decide⟩
  | n + 3 => exact .inl ⟨rfl, by omega⟩

theorem Channels.ofCode_spec (n : Nat) : (Channels.ofCode n = none ∧ ¬(n = 1 ∨ n = 2)) ∨ ∃ k, Channels.ofCode n = some k ∧ k.count = n ∧ (n = 1 ∨ n = 2) := by
  unfold Channels.ofCode
  split
  · exact .inr ⟨_, rfl, rfl, .inl rfl⟩
  · exact .inr ⟨_, rfl, rfl, .inr rfl⟩
  · next h1 h2 => exact .inl ⟨rfl, fun h => h.elim h1 h2⟩

theorem BlockSize.ofCode_spec (n : Nat) : (BlockSize.ofCode n = none ∧ ¬(n = 256 ∨ n = 512 ∨ n = 1024)) ∨
    ∃ k, BlockSize.ofCode n = some k ∧ k.frames = n ∧ (n = 256 ∨ n = 512 ∨ n = 1024) := by
  unfold BlockSize.ofCode
  split
  · exact .inr ⟨_, rfl, rfl, .inl rfl⟩
  · exact .inr ⟨_, rfl, rfl, .inr (.inl rfl)⟩
  · exact .inr ⟨_, rfl, rfl, .inr (.inr rfl)⟩
  · next h1 h2 h3 => exact .inl ⟨rfl, fun h => h.elim h1 fun h => h.elim h2 h3⟩

theorem rateOfNat_spec (n : Nat) : (rateOfNat n = none ∧ 5 < n) ∨ ∃ k, rateOfNat n = some k ∧ k.val = n ∧ n ≤ 5 := by
  unfold rateOfNat
  split
  · exact .inr ⟨_, rfl, rfl, by omega⟩
  · exact .inl ⟨rfl, by omega⟩

/-- The enumerated fields of the fixed group hold values of theirs (R93). -/
def FixedFields (ps : List Byte) : Prop :=
  field ps 2 1 ≤ 1 ∧ field ps 3 1 ≤ 1 ∧ field ps 4 1 ≤ 5 ∧ (field ps 5 1 = 1 ∨ field ps 5 1 = 2) ∧
    (field ps 8 2 = 256 ∨ field ps 8 2 = 512 ∨ field ps 8 2 = 1024)

/-- The fixed group of a profile as LANE_SET's bytes give it, clamped (R94). -/
def FixedWritten (ps : List Byte) (p : Profile) : Prop :=
  (p.enabled = true ↔ field ps 2 1 = 1) ∧ p.source.code = field ps 3 1 ∧ p.rate.val = field ps 4 1 ∧
    p.channels.count = field ps 5 1 ∧ p.deck.toNat = field ps 6 2 ∧ p.blockSize.frames = field ps 8 2 ∧
    p.quota = max 2 (min (field ps 10 1) 64) ∧ p.history = min (field ps 11 2) 8192 ∧ p.tolerance = max 1 (min (field ps 13 1) 20)

/-- The fixed group of a profile is that of another. -/
def FixedKept (p x : Profile) : Prop :=
  p.enabled = x.enabled ∧ p.source = x.source ∧ p.rate = x.rate ∧ p.channels = x.channels ∧ p.deck = x.deck ∧
    p.blockSize = x.blockSize ∧ p.quota = x.quota ∧ p.history = x.history ∧ p.tolerance = x.tolerance

/-- The live group of a profile as LANE_SET's bytes give it, clamped (R94). -/
def LiveWritten (ps : List Byte) (p : Profile) : Prop :=
  p.low = min (field ps 14 3) 8388607 ∧ p.high = max p.low (min (field ps 17 3) 8388607) ∧
    p.ns = max 1 (min (field ps 20 2) 6000) ∧ p.ng = max 1 (min (field ps 22 1) 100) ∧
    p.clip = max 1 (min (field ps 23 3) 8388608) ∧ p.runK = max 1 (min (field ps 26 1) 16) ∧ p.cueMode.code = field ps 27 1 ∧
    p.debounce = max 1 (field ps 28 1) ∧ p.grace = min (field ps 29 2) 5000 ∧ p.quality = max 1 (min (field ps 31 2) 1000)

/-- The live group of a profile is that of another. -/
def LiveKept (p x : Profile) : Prop :=
  p.low = x.low ∧ p.high = x.high ∧ p.ns = x.ns ∧ p.ng = x.ng ∧ p.clip = x.clip ∧ p.runK = x.runK ∧ p.cueMode = x.cueMode ∧
    p.debounce = x.debounce ∧ p.grace = x.grace ∧ p.quality = x.quality

section
variable {ps : List Byte}

theorem clamp_zero (hi n : Nat) : clamp 0 hi n = min n hi := Nat.zero_max _

theorem FixedWritten.of_kept {p x : Profile} (h : FixedWritten ps x) (hk : FixedKept p x) : FixedWritten ps p := by
  obtain ⟨he, hs, hr, hc, hd, hb, hq, hh, ht⟩ := hk
  unfold FixedWritten
  rw [he, hs, hr, hc, hd, hb, hq, hh, ht]
  exact h

theorem fixedGroup_of_fields (h : FixedFields ps) (x : Profile) :
    ∃ p, fixedGroup ps x = some p ∧ FixedWritten ps p ∧ LiveKept p x ∧ p.ratio = x.ratio := by
  obtain ⟨he, hs, hr, hc, hb⟩ := h
  obtain ⟨source, hs, source_code⟩ : ∃ k, SourceMode.ofCode (field ps 3 1) = some k ∧ k.code = field ps 3 1 := by
    obtain ⟨-, hn⟩ | ⟨k, hk, hcode, -⟩ := SourceMode.ofCode_spec (field ps 3 1)
    · omega
    · exact ⟨k, hk, hcode⟩
  obtain ⟨rate, hr, rate_val⟩ : ∃ k, rateOfNat (field ps 4 1) = some k ∧ k.val = field ps 4 1 := by
    obtain ⟨-, hn⟩ | ⟨k, hk, hcode, -⟩ := rateOfNat_spec (field ps 4 1)
    · omega
    · exact ⟨k, hk, hcode⟩
  obtain ⟨channels, hc, channels_count⟩ : ∃ k, Channels.ofCode (field ps 5 1) = some k ∧ k.count = field ps 5 1 := by
    obtain ⟨-, hn⟩ | ⟨k, hk, hcode, -⟩ := Channels.ofCode_spec (field ps 5 1)
    · exact absurd hc hn
    · exact ⟨k, hk, hcode⟩
  obtain ⟨size, hb, size_frames⟩ : ∃ k, BlockSize.ofCode (field ps 8 2) = some k ∧ k.frames = field ps 8 2 := by
    obtain ⟨-, hn⟩ | ⟨k, hk, hcode, -⟩ := BlockSize.ofCode_spec (field ps 8 2)
    · exact absurd hb hn
    · exact ⟨k, hk, hcode⟩
  have deck : (BitVec.ofNat 16 (field ps 6 2)).toNat = field ps 6 2 := Nat.mod_eq_of_lt (field_lt ps 6 2)
  unfold fixedGroup
  rw [hs, hr, hc, hb]
  refine ⟨_, if_pos he, ⟨?_, source_code, rate_val, channels_count, deck, size_frames, rfl, clamp_zero _ _, rfl⟩,
    ⟨rfl, rfl, rfl, rfl, rfl, rfl, rfl, rfl, rfl, rfl⟩, rfl⟩
  exact beq_iff_eq

theorem fields_of_fixedGroup {x p : Profile} (h : fixedGroup ps x = some p) : FixedFields ps := by
  unfold fixedGroup at h
  split at h
  case h_1 source rate channels size hs hr hc hb =>
    rw [Option.ite_none_right_eq_some] at h
    refine ⟨h.1, ?_, ?_, ?_, ?_⟩
    · obtain ⟨hn, -⟩ | ⟨-, -, -, hle⟩ := SourceMode.ofCode_spec (field ps 3 1)
      · exact nomatch hn.symm.trans hs
      · exact hle
    · obtain ⟨hn, -⟩ | ⟨-, -, -, hle⟩ := rateOfNat_spec (field ps 4 1)
      · exact nomatch hn.symm.trans hr
      · exact hle
    · obtain ⟨hn, -⟩ | ⟨-, -, -, hle⟩ := Channels.ofCode_spec (field ps 5 1)
      · exact nomatch hn.symm.trans hc
      · exact hle
    · obtain ⟨hn, -⟩ | ⟨-, -, -, hle⟩ := BlockSize.ofCode_spec (field ps 8 2)
      · exact nomatch hn.symm.trans hb
      · exact hle
  case h_2 => exact nomatch h

theorem liveGroup_of_field (h : field ps 27 1 ≤ 2) (x : Profile) :
    ∃ p, liveGroup ps x = some p ∧ LiveWritten ps p ∧ FixedKept p x ∧ p.ratio = x.ratio := by
  obtain ⟨-, hn⟩ | ⟨mode, hm, mode_code, -⟩ := CueMode.ofCode_spec (field ps 27 1)
  · omega
  · have debounce : clamp 1 255 (field ps 28 1) = max 1 (field ps 28 1) := by
      have := field_lt ps 28 1
      unfold clamp
      omega
    unfold liveGroup
    rw [hm]
    refine ⟨_, rfl, ⟨clamp_zero _ _, ?_, rfl, rfl, rfl, rfl, mode_code, debounce, clamp_zero _ _, rfl⟩, ⟨rfl, rfl, rfl, rfl, rfl, rfl, rfl, rfl, rfl⟩, rfl⟩
    dsimp only
    rw [clamp_zero, clamp_zero]

theorem field_of_liveGroup {x p : Profile} (h : liveGroup ps x = some p) : field ps 27 1 ≤ 2 := by
  unfold liveGroup at h
  split at h
  case h_1 mode hm =>
    obtain ⟨hn, -⟩ | ⟨-, -, -, hle⟩ := CueMode.ofCode_spec (field ps 27 1)
    · exact nomatch hn.symm.trans hm
    · exact hle
  case h_2 => exact nomatch h

/-- The groups that an accepted selector names are written, the others kept (R93, R94). -/
theorem selectedGroups_of_fields (h : laneSetFields ps) (x : Profile) : ∃ p, selectedGroups ps x = some p ∧
    (field ps 1 1 ≠ 1 → FixedWritten ps p) ∧ (field ps 1 1 = 1 → FixedKept p x) ∧
    (field ps 1 1 ≠ 0 → LiveWritten ps p) ∧ (field ps 1 1 = 0 → LiveKept p x) ∧ p.ratio = x.ratio := by
  obtain ⟨hsel, hfixed, hlive⟩ := h
  obtain h0 | h1 | h2 : field ps 1 1 = 0 ∨ field ps 1 1 = 1 ∨ field ps 1 1 = 2 := by omega
  · obtain ⟨p, hp, written, kept, ratio⟩ := fixedGroup_of_fields (hfixed (by omega)) x
    refine ⟨p, ?_, fun _ => written, by omega, by omega, fun _ => kept, ratio⟩
    simp only [selectedGroups, h0, hp]
  · obtain ⟨p, hp, written, kept, ratio⟩ := liveGroup_of_field (hlive (by omega)) x
    refine ⟨p, ?_, by omega, fun _ => kept, fun _ => written, by omega, ratio⟩
    simp only [selectedGroups, h1, hp]
  · obtain ⟨q, hq, written, -, ratio⟩ := fixedGroup_of_fields (hfixed (by omega)) x
    obtain ⟨p, hp, live, kept, ratio'⟩ := liveGroup_of_field (hlive (by omega)) q
    refine ⟨p, ?_, fun _ => written.of_kept kept, by omega, fun _ => live, by omega, ratio'.trans ratio⟩
    simp only [selectedGroups, h2, hq, Option.bind_some, hp]

theorem selectedGroups_of_bad (h : ¬laneSetFields ps) (x : Profile) : selectedGroups ps x = none := by
  by_contra hsome
  obtain ⟨p, hp⟩ := Option.ne_none_iff_exists'.mp hsome
  refine h ?_
  unfold selectedGroups at hp
  unfold laneSetFields
  split at hp
  case h_1 hsel => exact ⟨by omega, fun _ => fields_of_fixedGroup hp, by omega⟩
  case h_2 hsel => exact ⟨by omega, by omega, fun _ => field_of_liveGroup hp⟩
  case h_3 hsel =>
    obtain ⟨q, hq, hp⟩ := Option.bind_eq_some_iff.mp hp
    exact ⟨by omega, fun _ => fields_of_fixedGroup hq, fun _ => field_of_liveGroup hp⟩
  case h_4 => exact nomatch hp

end

/-! ### A profile taking effect -/

theorem keepStart_none (ring : List Frame) : keepStart ring none = none := rfl

theorem keepStart_some (ring : List Frame) (v : FrameCount) :
    keepStart ring (some v) = if ring.any fun f => f.counter == v then some v else none := by
  rw [keepStart, Option.filter_some]

/-- A lane after a profile has been written and its ring cut (R94, R111). -/
def Lane.withProfile (x : Lane) (p : Profile) : Lane := ({ x with profile := p } : Lane).trimRing

theorem Lane.withProfile_eq (x : Lane) (p : Profile) : x.withProfile p = { x with
    profile := p, ring := x.ring.drop (x.ring.length - p.history)
    eligible := keepStart (x.ring.drop (x.ring.length - p.history)) x.eligible } := rfl

/-- Measurement restarts in the port of a lane (R82). -/
def Lane.remeasured (x : Lane) : Lane :=
  { x with port := { x.port with lock := .measuring, measured := 0, windowConcealed := 0, windowLimit := x.profile.quality } }

theorem State.restartMeasurement_noClock {s : State} {l : LaneId} (h : (s.lane l).port.lock = .noClock) : s.restartMeasurement l = s := by
  rw [State.restartMeasurement, h]

theorem State.restartMeasurement_locked {s : State} {l : LaneId} (h : (s.lane l).port.lock = .locked) :
    s.restartMeasurement l = (s.setLane l (s.lane l).remeasured).raise (.lane l .lockChange) := by
  rw [State.restartMeasurement, h]
  rfl

theorem State.restartMeasurement_seeking {s : State} {l : LaneId} (h : (s.lane l).port.lock ≠ .noClock) (h' : (s.lane l).port.lock ≠ .locked) :
    s.restartMeasurement l = s.setLane l (s.lane l).remeasured := by
  unfold State.restartMeasurement
  split
  · next hl => exact absurd hl h
  · next hl => exact absurd hl h'
  · rfl

theorem State.loseLock_empty {s : State} {l : LaneId} (h : (s.lane l).item = none) : s.loseLock l = s := by rw [State.loseLock, h]

/-- What a profile changes for the measurement of a lane (R82). -/
def Lane.Remeasures (x y : Lane) : Prop :=
  y.inUse.rate ≠ x.inUse.rate ∨ y.inUse.channels ≠ x.inUse.channels ∨ y.profile.tolerance ≠ x.profile.tolerance

section
variable {s : State} {l : LaneId} {p : Profile}

theorem State.applyProfile_eq (s : State) (l : LaneId) (p : Profile) : s.applyProfile l p =
    if ((s.lane l).inUse.rate != ((s.lane l).withProfile p).inUse.rate || (s.lane l).inUse.channels != ((s.lane l).withProfile p).inUse.channels ||
        (s.lane l).profile.tolerance != p.tolerance) = true then
      if (s.lane l).port.lock = .locked then ((s.setLane l ((s.lane l).withProfile p)).restartMeasurement l).loseLock l
      else (s.setLane l ((s.lane l).withProfile p)).restartMeasurement l
    else s.setLane l ((s.lane l).withProfile p) := by
  have written : (s.mapLane l fun x => ({ x with profile := p } : Lane).trimRing) = s.setLane l ((s.lane l).withProfile p) := rfl
  unfold State.applyProfile
  dsimp only
  rw [written, State.lane_setLane]

theorem Lane.remeasures_iff {x : Lane} : x.Remeasures (x.withProfile p) ↔ (x.inUse.rate != (x.withProfile p).inUse.rate ||
    x.inUse.channels != (x.withProfile p).inUse.channels || x.profile.tolerance != p.tolerance) = true := by
  simp only [Bool.or_eq_true, bne_iff_ne, or_assoc]
  exact or_congr ne_comm (or_congr ne_comm ne_comm)

theorem State.applyProfile_plain (h : ¬(s.lane l).Remeasures ((s.lane l).withProfile p) ∨ (s.lane l).port.lock = .noClock) :
    s.applyProfile l p = s.setLane l ((s.lane l).withProfile p) := by
  rw [State.applyProfile_eq]
  by_cases changed : (s.lane l).Remeasures ((s.lane l).withProfile p)
  · have lost := h.resolve_left fun hn => hn changed
    have stays := State.restartMeasurement_noClock (s := s.setLane l ((s.lane l).withProfile p)) (l := l) (by rw [State.lane_setLane]; exact lost)
    rw [if_pos (Lane.remeasures_iff.mp changed), if_neg (by rw [lost]; exact LockState.noConfusion), stays]
  · rw [if_neg fun hc => changed (Lane.remeasures_iff.mpr hc)]

theorem State.applyProfile_restarts (h : (s.lane l).Remeasures ((s.lane l).withProfile p)) (hl : (s.lane l).port.lock ≠ .noClock)
    (hi : (s.lane l).item = none) : s.applyProfile l p = if (s.lane l).port.lock = .locked
      then (s.setLane l ((s.lane l).withProfile p).remeasured).raise (.lane l .lockChange)
      else s.setLane l ((s.lane l).withProfile p).remeasured := by
  rw [State.applyProfile_eq, if_pos (Lane.remeasures_iff.mp h)]
  have lane : (s.setLane l ((s.lane l).withProfile p)).lane l = (s.lane l).withProfile p := State.lane_setLane ..
  have lock : ((s.setLane l ((s.lane l).withProfile p)).lane l).port.lock = (s.lane l).port.lock := by
    rw [lane]
    rfl
  split
  · next locked =>
    rw [State.restartMeasurement_locked (lock.trans locked), lane, State.setLane_setLane]
    refine State.loseLock_empty ?_
    rw [State.lane_raise, State.lane_setLane]
    exact hi
  · next open_ =>
    rw [State.restartMeasurement_seeking (lock ▸ hl) (lock ▸ open_), lane, State.setLane_setLane]

end

/-! ### The tests of LANE_SET -/

theorem Lane.transfer_busy {x : Lane} (he : x.profile.enabled = true) (hi : x.item.isSome = true) :
    (x.transfer == .recording || x.transfer == .dropout) = true := by
  obtain ⟨o, ho⟩ := Option.isSome_iff_exists.mp hi
  simp only [Lane.transfer, he, ho]
  cases o.dropout <;> rfl

theorem Lane.transfer_off {x : Lane} (he : x.profile.enabled = false) : x.transfer = .off := by simp [Lane.transfer, he]

theorem Lane.transfer_empty {x : Lane} (he : x.profile.enabled = true) (hi : x.item = none) :
    x.transfer = if x.queue = [] then .idle else .armed := by
  simp [Lane.transfer, he, hi, List.isEmpty_iff]

section
variable {s : State} {l : LaneId} {ps : List Byte} {p : Profile} (hp : selectedGroups ps (s.lane l).profile = some p)
include hp

/-- A LANE_SET that selects the fixed group while an item is open, or that disables a lane with records queued, is refused (R93). -/
theorem laneSet_busy (h : (field ps 1 1 ≠ 1 ∧ ((s.lane l).transfer == .recording || (s.lane l).transfer == .dropout) = true) ∨
    ((s.lane l).profile.enabled = true ∧ p.enabled = false ∧ (s.lane l).transfer ≠ .idle)) : laneSet l ps s = refuse s .laneBusy := by
  unfold laneSet
  simp only [hp]
  obtain ⟨hne, hbusy⟩ | ⟨he, hd, hi⟩ := h
  · exact if_pos (by simpa [hne] using hbusy)
  · split
    · rfl
    · exact if_pos (by simp [he, hd, hi])

theorem laneSet_badRatio (he : (s.lane l).profile.enabled = false) (hd : p.enabled = true) (hr : (laneSetRatio ps).valid = false) :
    laneSet l ps s = refuse s .badRatio := by
  unfold laneSet
  simp only [hp, Lane.transfer_off he, he, hd, hr]
  simp

theorem laneSet_accepted (hbusy : ¬(field ps 1 1 ≠ 1 ∧ ((s.lane l).transfer == .recording || (s.lane l).transfer == .dropout) = true))
    (hoff : ¬((s.lane l).profile.enabled = true ∧ p.enabled = false ∧ (s.lane l).transfer ≠ .idle))
    (hr : (s.lane l).profile.enabled = false → p.enabled = true → (laneSetRatio ps).valid = true)
    {q : Profile} (hq : q = if (s.lane l).profile.enabled = false ∧ p.enabled = true then { p with ratio := laneSetRatio ps } else p) :
    laneSet l ps s = accept (s.applyProfile l q) q.bytes := by
  have ratio : (if (!(s.lane l).profile.enabled && p.enabled) = true then { p with ratio := laneSetRatio ps } else p) = q := by
    rw [hq]
    simp
  unfold laneSet
  simp only [hp, ratio]
  rw [if_neg (by simpa using hbusy), if_neg (by simpa using hoff), if_neg (by simpa using hr)]

end

end Sys2Proof.Machine

namespace Sys2Proof.Proofs
open Sys2Proof.Machine

/-- Settles O15: the tests of LANE_SET in their order. -/
theorem laneSetRefused : Obligations.LaneSetRefused := by
  intro s tag ps l hr hn hl hoff
  have refused {st : Status} (h : Machine.laneSet l ps s.takeCommand = refuse s.takeCommand st) :
      exec .laneSet s = .next (s.answered ⟨tag, 0x20, ps⟩ st) :=
    command_refused hr rfl ((counted_of_length hn _ _).trans ((onLane_of_field hl _ _).trans h))
  have enabled (hi : (s.lane l).item.isSome = true) : (s.lane l).profile.enabled = true := by
    by_contra he
    simp [(hoff (Bool.eq_false_iff.mpr he)).1] at hi
  refine ⟨fun hbad => refused ?_, fun hf hne hi => ?_, fun hf hne he hd hq => ?_, fun hf hne he hd hratio => ?_⟩
  · have nothing := selectedGroups_of_bad hbad (s.takeCommand.lane l).profile
    unfold Machine.laneSet
    simp only [nothing]
  · obtain ⟨p, hp, -⟩ := selectedGroups_of_fields hf (s.lane l).profile
    exact refused (laneSet_busy (s := s.takeCommand) hp (.inl ⟨hne, Lane.transfer_busy (enabled hi) hi⟩))
  · obtain ⟨p, hp, written, -⟩ := selectedGroups_of_fields hf (s.lane l).profile
    have disabling : p.enabled = false := Bool.eq_false_iff.mpr fun h => by
      have := (written hne).1.mp h
      omega
    refine refused (laneSet_busy (s := s.takeCommand) hp ?_)
    cases hi : (s.lane l).item with
    | some o => exact .inl ⟨hne, Lane.transfer_busy he (Option.isSome_of_eq_some hi)⟩
    | none =>
      refine .inr ⟨he, disabling, ?_⟩
      show (s.lane l).transfer ≠ .idle
      rw [Lane.transfer_empty he hi, if_neg hq]
      exact TransferState.noConfusion
  · obtain ⟨p, hp, written, -⟩ := selectedGroups_of_fields hf (s.lane l).profile
    have invalid : (laneSetRatio ps).valid = false := Bool.eq_false_iff.mpr fun h =>
      hratio ((Ratio.valid_iff (r := laneSetRatio ps) (field_lt ps 33 2) (field_lt ps 35 2)).mp h)
    exact refused (laneSet_badRatio (s := s.takeCommand) hp he ((written hne).1.mpr hd) invalid)

end Sys2Proof.Proofs

namespace Sys2Proof.Machine

theorem Lane.transfer_free {x : Lane} (h : x.item = none) : (x.transfer == .recording || x.transfer == .dropout) = false := by
  by_cases he : x.profile.enabled = true
  · rw [Lane.transfer_empty he h]
    split <;> rfl
  · rw [Lane.transfer_off (Bool.eq_false_iff.mpr he)]
    rfl

/-- The profile that an accepted LANE_SET stores: the selected groups, and the ratio when it enables the lane (R53, R93). -/
def storedProfile (ps : List Byte) (x p : Profile) : Profile :=
  if x.enabled = false ∧ p.enabled = true then { p with ratio := laneSetRatio ps } else p

theorem storedProfile_eq (ps : List Byte) (x p : Profile) : storedProfile ps x p = { p with ratio := (storedProfile ps x p).ratio } := by
  unfold storedProfile
  split <;> rfl

/-- The lane as LANE_SET leaves it: the port alone may differ from the lane with the profile written. -/
theorem Lane.laneSet_keeps {x y : Lane} {p : Profile} (h : y = { x.withProfile p with port := y.port }) (hd : y.port.declared = x.port.declared) :
    y.profile = p ∧ y.ring = x.ring.drop (x.ring.length - p.history) ∧ y.cue = x.cue ∧ y.detector = x.detector ∧ y.queue = x.queue ∧
      y.item = x.item ∧ y.baseline = x.baseline ∧ (x.eligible = none → y.eligible = none) ∧
      (∀ v, x.eligible = some v → y.eligible = if y.ring.any fun f => f.counter == v then some v else none) ∧
      y.inUse = (x.withProfile p).inUse := by
  have inUse : y.inUse = (x.withProfile p).inUse := by
    rw [h]
    simp only [Lane.inUse, hd]
    rfl
  have eligible : y.eligible = keepStart y.ring x.eligible := by rw [h, Lane.withProfile_eq]
  refine ⟨by rw [h]; rfl, by rw [h]; rfl, by rw [h]; rfl, by rw [h]; rfl, by rw [h]; rfl, by rw [h]; rfl, by rw [h]; rfl, fun hn => ?_, fun v hv => ?_, inUse⟩
  · rw [eligible, hn, keepStart_none]
  · rw [eligible, hv, keepStart_some]

/-- A profile whose fixed group is kept restarts nothing. -/
theorem Lane.not_remeasures {x : Lane} {p : Profile} (h : FixedKept p x.profile) : ¬x.Remeasures (x.withProfile p) := by
  obtain ⟨-, hs, hr, hc, hd, -, -, -, ht⟩ := h
  have inUse : (x.withProfile p).inUse = x.inUse := by
    show Lane.inUse { x.withProfile p with profile := p } = _
    unfold Lane.inUse
    dsimp only
    rw [hs, hr, hc, hd]
    rfl
  unfold Lane.Remeasures
  rw [inUse, show (x.withProfile p).profile.tolerance = p.tolerance from rfl, ht]
  exact fun h => h.elim (fun h => h rfl) fun h => h.elim (fun h => h rfl) fun h => h rfl

end Sys2Proof.Machine

namespace Sys2Proof.Proofs
open Sys2Proof.Machine

/-- Settles O16: the profile is stored, and measurement restarts where it has to. -/
theorem laneSetAccepted : Obligations.LaneSetAccepted := by
  intro s tag ps l hr hn hl hoff hf hitem hqueue hratio x
  obtain ⟨p, hp, fixedWritten, fixedKept, liveWritten, liveKept, ratioKept⟩ := selectedGroups_of_fields hf x.profile
  obtain ⟨q, hstored⟩ : ∃ q, q = storedProfile ps x.profile p := ⟨_, rfl⟩
  have hq : q = { p with ratio := q.ratio } := hstored ▸ storedProfile_eq ps x.profile p
  have enabling (he : x.profile.enabled = false) (hpe : p.enabled = true) : field ps 1 1 ≠ 1 ∧ field ps 2 1 = 1 := by
    have hne : field ps 1 1 ≠ 1 := fun h => by
      have := (fixedKept h).1
      rw [he, hpe] at this
      exact Bool.noConfusion this
    exact ⟨hne, (fixedWritten hne).1.mp hpe⟩
  have busy : ¬(field ps 1 1 ≠ 1 ∧ (x.transfer == .recording || x.transfer == .dropout) = true) := by
    rintro ⟨hne, h⟩
    rw [Lane.transfer_free (hitem hne)] at h
    exact Bool.noConfusion h
  have disabling : ¬(x.profile.enabled = true ∧ p.enabled = false ∧ x.transfer ≠ .idle) := by
    rintro ⟨he, hd, hi⟩
    have hne : field ps 1 1 ≠ 1 := fun h => by
      have := (fixedKept h).1
      rw [he, hd] at this
      exact Bool.noConfusion this
    have zero : field ps 2 1 = 0 := by
      have le := (hf.2.1 hne).1
      have ne : field ps 2 1 ≠ 1 := fun h => by
        have := (fixedWritten hne).1.mpr h
        rw [hd] at this
        exact Bool.noConfusion this
      omega
    rw [Lane.transfer_empty he (hitem hne), if_pos (hqueue hne he zero)] at hi
    exact hi rfl
  have valid (he : x.profile.enabled = false) (hpe : p.enabled = true) : (laneSetRatio ps).valid = true := by
    obtain ⟨hne, hone⟩ := enabling he hpe
    exact (Ratio.valid_iff (r := laneSetRatio ps) (field_lt ps 33 2) (field_lt ps 35 2)).mpr (hratio hne he hone)
  have ratio : q.ratio = if field ps 1 1 ≠ 1 ∧ x.profile.enabled = false ∧ field ps 2 1 = 1 then ⟨field ps 33 2, field ps 35 2⟩ else x.profile.ratio := by
    rw [hstored]
    unfold storedProfile
    by_cases h : x.profile.enabled = false ∧ p.enabled = true
    · obtain ⟨hne, hone⟩ := enabling h.1 h.2
      rw [if_pos h, if_pos ⟨hne, h.1, hone⟩]
      rfl
    · rw [if_neg h, if_neg fun ⟨hne, he, hone⟩ => h ⟨he, (fixedWritten hne).1.mpr hone⟩, ratioKept]
  have accepted : Machine.laneSet l ps s.takeCommand = accept (s.takeCommand.applyProfile l q) q.bytes :=
    laneSet_accepted (s := s.takeCommand) hp busy disabling valid hstored
  have run (t : State) (ht : s.takeCommand.applyProfile l q = t) (hc : t.cmd = s.takeCommand.cmd) :
      exec .laneSet s = .next (({ t with cmd := s.cmd } : State).answered ⟨tag, 0x20, ps⟩ .ok q.bytes) := by
    have taken : exec .laneSet s = .next ((Machine.laneSet l ps s.takeCommand).reply ⟨tag, 0x20, ps⟩) :=
      (command_counted_of_ready hr hn (onLane Machine.laneSet)).trans (by rw [onLane_of_field hl])
    rw [taken, accepted, ht, reply_answered hc]
  have stored : (field ps 1 1 ≠ 1 → FixedWritten ps q) ∧ (field ps 1 1 = 1 → FixedKept q x.profile) ∧ (field ps 1 1 ≠ 0 → LiveWritten ps q) ∧
      (field ps 1 1 = 0 → LiveKept q x.profile) := by
    rw [hq]
    exact ⟨fixedWritten, fixedKept, liveWritten, liveKept⟩
  obtain ⟨fixedWritten, fixedKept, liveWritten, liveKept⟩ := stored
  have on : s.takeCommand.lane l = s.lane l := rfl
  by_cases restarts : x.Remeasures (x.withProfile q) ∧ x.port.lock ≠ .noClock
  · obtain ⟨changed, clocked⟩ := restarts
    have selected : field ps 1 1 ≠ 1 := fun h => (Lane.not_remeasures (fixedKept h)) changed
    have applied := State.applyProfile_restarts (s := s.takeCommand) (l := l) (p := q) (by rw [on]; exact changed) (by rw [on]; exact clocked)
      (by rw [on]; exact hitem selected)
    rw [on] at applied
    have keeps := Lane.laneSet_keeps (x := x) (y := (x.withProfile q).remeasured) (p := q) rfl rfl
    have port : (x.withProfile q).remeasured.port =
      { x.port with lock := .measuring, measured := 0, windowConcealed := 0, windowLimit := q.quality } := rfl
    have seeking (h : x.port.lock ≠ .locked) := run _ (applied.trans (if_neg h)) rfl
    have locked (h : x.port.lock = .locked) := run _ (applied.trans (if_pos h)) rfl
    generalize (x.withProfile q).remeasured = y at *
    obtain ⟨rfl, hring, hcue, hdetector, hq, hi, hbaseline, hnone, hsome, hinUse⟩ := keeps
    have restarted : y.inUse.rate ≠ x.inUse.rate ∨ y.inUse.channels ≠ x.inUse.channels ∨ y.profile.tolerance ≠ x.profile.tolerance := by
      rw [hinUse]
      exact changed
    by_cases hl : x.port.lock = .locked
    · exact ⟨y.profile, y, (s.setLane l y).raise (.lane l .lockChange), locked hl, rfl, fixedWritten, fixedKept, liveWritten, liveKept, ratio, hring,
        hcue, hdetector, hq, hi, hbaseline, hnone, hsome, fun h => absurd restarted (h.resolve_right clocked), fun _ _ =>
        ⟨port, fun hn => absurd hl hn, fun _ => rfl⟩⟩
    · exact ⟨y.profile, y, s.setLane l y, seeking hl, rfl, fixedWritten, fixedKept, liveWritten, liveKept, ratio, hring,
        hcue, hdetector, hq, hi, hbaseline, hnone, hsome, fun h => absurd restarted (h.resolve_right clocked), fun _ _ =>
        ⟨port, fun _ => rfl, fun h => absurd h hl⟩⟩
  · have plain : ¬x.Remeasures (x.withProfile q) ∨ x.port.lock = .noClock :=
      (not_and_or.mp restarts).imp_right not_not.mp
    have applied := State.applyProfile_plain (s := s.takeCommand) (l := l) (p := q) (by rw [on]; exact plain)
    rw [on] at applied
    have ran := run _ applied rfl
    have keeps := Lane.laneSet_keeps (x := x) (y := x.withProfile q) (p := q) rfl rfl
    have notBoth (hc : x.Remeasures (x.withProfile q)) : ¬x.port.lock ≠ .noClock := fun hn => restarts ⟨hc, hn⟩
    have same : (x.withProfile q).port = x.port := rfl
    generalize x.withProfile q = y at *
    obtain ⟨rfl, hring, hcue, hdetector, hq, hi, hbaseline, hnone, hsome, -⟩ := keeps
    exact ⟨y.profile, y, s.setLane l y, ran, rfl, fixedWritten, fixedKept, liveWritten, liveKept, ratio, hring, hcue, hdetector, hq, hi,
      hbaseline, hnone, hsome, fun _ => ⟨same, rfl⟩, fun hc hn => absurd hn (notBoth hc)⟩

end Sys2Proof.Proofs

namespace Sys2Proof.Machine

/-! ### LANE_RESET -/

theorem Lane.laneReset_atReset (x : Lane) : x.laneReset.AtReset x.profile := ⟨rfl, rfl, rfl, rfl, rfl, rfl, rfl, rfl, rfl⟩

/-- The flags of a lane cleared (R172). -/
def EventUnit.clearLane (ev : EventUnit) (l : LaneId) : EventUnit := { ev with lanes := ev.lanes.set l 0 }

theorem EventUnit.isSet_clearLane_self (ev : EventUnit) (l : LaneId) (e : LaneEvent) : (ev.clearLane l).isSet (.lane l e) = false := by
  simp [EventUnit.isSet, EventUnit.clearLane]

theorem EventUnit.isSet_clearLane_other (ev : EventUnit) (l : LaneId) {f : Flag} (h : ∀ e, f ≠ .lane l e) : (ev.clearLane l).isSet f = ev.isSet f := by
  cases f with
  | lane k e =>
    have other : l ≠ k := fun hk => h e (hk ▸ rfl)
    simp [EventUnit.isSet, EventUnit.clearLane, Fin.val_ne_of_ne other]
  | device e => rfl
  | routeDone r => rfl

/-- A lane whose open slot is empty, reset; records freed at the end of the pool (R22, R97; log 10). -/
def State.resetLane (s : State) (l : LaneId) (freed : List Nat) : State :=
  ({ s with table := { s.table with pool := s.table.pool ++ freed } } : State).mapLane l Lane.laneReset

section
variable {s : State} {l : LaneId} {freed : List Nat}

theorem State.resetLane_self : (s.resetLane l freed).lane l = (s.lane l).laneReset := State.lane_mapLane ..

theorem State.resetLane_other {k : LaneId} (h : k ≠ l) : (s.resetLane l freed).lane k = s.lane k := State.lane_mapLane_ne _ _ h

theorem State.canGrant_resetLane (h : (s.lane l).item = none) (k : LaneId) : (s.resetLane l freed).canGrant k = s.canGrant k := by
  refine State.canGrant_setLane { s with table := { s.table with pool := s.table.pool ++ freed } } l (s.lane l).laneReset ?_ rfl k
  have empty : (s.lane l).hasBuffer = false := by rw [Lane.hasBuffer, h]
  exact empty.symm

/-- The waiting lanes after a close do not depend on the lane that is reset behind it. -/
theorem State.WaitingAfterClose.resetLane {u : State} {o : OpenItem} (h : s.WaitingAfterClose u l o) (hi : (u.lane l).item = none) :
    s.WaitingAfterClose (u.resetLane l freed) l o := by
  refine ⟨h.1, fun b hb => ⟨(h.2 b hb).1, fun hz => ?_⟩⟩
  obtain ⟨sublist, granted, stay⟩ := (h.2 b hb).2 hz
  refine ⟨sublist, fun k q hk hin hout hq => ?_, fun hl k hin => ?_⟩
  · rw [State.resetLane_other hk]
    exact granted k q hk hin hout hq
  · rw [State.canGrant_resetLane hi]
    exact stay hl k hin

end

/-- The flags of lane `l` cleared, before anything else of LANE_RESET (R172). -/
def State.clearFlags (s : State) (l : LaneId) : State := { s with events := s.events.clearLane l }

theorem laneReset_eq (l : LaneId) (ps : List Byte) (s : State) : laneReset l ps s =
    accept (((s.clearFlags l).closeItem l .laneReset).resetLane l ((s.lane l).queue.map Queued.record))
      (be 1 (s.lane l).queue.length ++ be 4 (((s.lane l).item.map fun o => o.queued.item.toNat).getD 0)) := rfl

/-- A command on one lane, accepted: the state that its body leaves, answered. -/
theorem laneReset_answered {s : State} {l : LaneId} {ps : List Byte} {c : Command} {u : State}
    (h : (s.takeCommand.clearFlags l).closeItem l .laneReset = u) (hc : u.cmd = s.takeCommand.cmd) :
    (laneReset l ps s.takeCommand).reply c = (({ u with cmd := s.cmd } : State).resetLane l ((s.lane l).queue.map Queued.record)).answered c .ok
      (be 1 (s.lane l).queue.length ++ be 4 (((s.lane l).item.map fun o => o.queued.item.toNat).getD 0)) := by
  rw [laneReset_eq, h]
  exact reply_answered (t := u.resetLane l ((s.lane l).queue.map Queued.record)) hc c _

end Sys2Proof.Machine

namespace Sys2Proof.Proofs
open Sys2Proof.Machine

/-- Settles O19: the close, the freed records, and the units of the lane reset behind it. -/
theorem laneReset : Obligations.LaneReset := by
  intro s tag ps l hr hn hl x
  have run : exec .laneReset s = .next ((Machine.laneReset l ps s.takeCommand).reply ⟨tag, 0x23, ps⟩) :=
    (command_counted_of_ready hr hn (onLane Machine.laneReset)).trans (by rw [onLane_of_field hl])
  have cleared (e : LaneEvent) : (s.clearFlags l).events.isSet (.lane l e) = false := s.events.isSet_clearLane_self l e
  have kept (f : Flag) (hf : ∀ e, f ≠ .lane l e) : (s.clearFlags l).events.isSet f = s.events.isSet f := s.events.isSet_clearLane_other l hf
  obtain ho | ⟨o, ho⟩ := Option.eq_none_or_eq_some x.item
  · have closed : (s.takeCommand.clearFlags l).closeItem l .laneReset = s.takeCommand.clearFlags l := by
      rw [State.closeItem, show ((s.takeCommand.clearFlags l).lane l).item = none from ho]
    have answered := run.trans (congrArg Host.Outcome.next (laneReset_answered (c := ⟨tag, 0x23, ps⟩) closed rfl))
    refine ⟨(s.clearFlags l).resetLane l (x.queue.map Queued.record), [], answered, ?_⟩
    rw [State.resetLane_self, ho]
    exact ⟨x.laneReset_atReset, rfl, rfl, rfl, (List.append_nil _).symm, fun _ => rfl, fun o h => absurd h nofun, cleared, kept, rfl, fun _ => rfl,
      fun k hk => .inl (State.resetLane_other hk), rfl, rfl, rfl, rfl, rfl, rfl, rfl⟩
  · have closes := State.closeItem_itemCloses (s.takeCommand.clearFlags l) l .laneReset ho
    obtain ⟨u, hu⟩ : ∃ u, u = (s.takeCommand.clearFlags l).closeItem l .laneReset := ⟨_, rfl⟩
    rw [← hu] at closes
    have answered := run.trans (congrArg Host.Outcome.next (laneReset_answered (c := ⟨tag, 0x23, ps⟩) hu.symm closes.2.2.2.2.2.2.2.1))
    obtain ⟨hlane, hpool, hclosed, ⟨b, hqueue, hlast⟩, hwaiting, hevents, ⟨htx, hrx, hroutes, hlow, -, -, -, -, -, hmask, -, hflags, hothers⟩, -, ha, hb⟩ :=
      closes.withCmd s.cmd
    let v : State := { u with cmd := s.cmd }
    have hi : (v.lane l).item = none := (congrArg Lane.item hlane :)
    refine ⟨v.resetLane l (x.queue.map Queued.record), [⟨o.queued, l, { o.record with blocks := o.record.blocks + 1 }, .laneReset⟩], answered, ?_⟩
    have base : (v.lane l).laneReset = x.laneReset := by rw [show v.lane l = _ from hlane]; rfl
    have raised (f : Flag) : u.events.isSet f = ((s.clearFlags l).events.isSet f || f == .lane l .itemClosed) :=
      (congrArg (fun ev => EventUnit.isSet ev f) hevents).trans ((s.clearFlags l).isSet_raise _ _ f)
    have flags : ({ o.record.flags with abandoned := o.record.flags.abandoned || CloseReason.laneReset == .abandoned } : ItemFlags) = o.record.flags := by
      rw [show (CloseReason.laneReset == .abandoned) = false from rfl, Bool.or_false]
    rw [flags] at hclosed
    rw [State.resetLane_self, base, ho]
    refine ⟨x.laneReset_atReset, rfl, rfl, congrArg (· ++ x.queue.map Queued.record) hpool, hclosed, fun h => absurd h nofun, ?_, fun e => ?_, fun f hf => ?_, hmask,
      fun h => absurd h nofun, fun k hk => ?_, htx, hrx, rfl, hroutes, ha, hb, hlow⟩
    · rintro p hp
      obtain rfl := Option.some.inj hp
      exact ⟨_, b, rfl, rfl, rfl, rfl, rfl, hqueue, hlast, hwaiting.resetLane hi⟩
    · refine (raised _).trans ?_
      rw [cleared]
      simp
    · exact (hflags f hf).trans (kept f hf)
    · rw [State.resetLane_other hk]
      exact hothers k hk

end Sys2Proof.Proofs

/-! A slot at a lane port: the frame taken from it, the injected concealment, and the status word of a port that takes none (R80, R84-R89). -/

namespace Sys2Proof.Machine

/-! ### The frame of a slot -/

section
variable {x : Lane} {slot : Slot} (hk : x.port.lock = .locked)
include hk

theorem Lane.frameTaken_counter : (x.frameTaken slot).counter = x.port.counter := by
  have arrived := x.arrive_arrived slot hk
  unfold Lane.frameTaken LanePort.frameOf
  split <;> exact arrived.counter

theorem Lane.frameTaken_concA : (x.frameTaken slot).concA = (failsParity slot.a || x.port.injection == 1) := by
  have arrived := x.arrive_arrived slot hk
  unfold Lane.frameTaken LanePort.frameOf
  split <;> exact arrived.badA

theorem Lane.frameTaken_a : (x.frameTaken slot).a = if (x.frameTaken slot).concA = true then x.port.goodA else slot.a.extractLsb' 2 24 := by
  have arrived := x.arrive_arrived slot hk
  rw [Lane.frameTaken_concA hk, ← arrived.ga, ← arrived.badA]
  unfold Lane.frameTaken LanePort.frameOf
  split <;> rfl

theorem Lane.frameTaken_two (h : x.inUse.channels = .two) : (x.frameTaken slot).concB = failsParity slot.b ∧
    (x.frameTaken slot).b = if (x.frameTaken slot).concB = true then x.port.goodB else slot.b.extractLsb' 2 24 := by
  have arrived := x.arrive_arrived slot hk
  unfold Lane.frameTaken
  rw [h]
  refine ⟨arrived.badB, ?_⟩
  rw [← arrived.gb]
  rfl

omit hk in
theorem Lane.frameTaken_one (h : x.inUse.channels ≠ .two) : (x.frameTaken slot).concB = false ∧ (x.frameTaken slot).b = 0 := by
  have one : x.inUse.channels = .one := by
    cases hc : x.inUse.channels
    · rfl
    · exact absurd hc h
  unfold Lane.frameTaken
  rw [one]
  exact ⟨rfl, rfl⟩

/-! ### The port that takes it -/

/-- The counts and the good samples of a port that has taken a slot (R84, R85, R86). -/
theorem Lane.afterSlot_counts : (x.afterSlot slot).port.counter = x.port.counter + 1 ∧ (x.afterSlot slot).port.injection = x.port.injection - 1 ∧
    (x.afterSlot slot).port.concealed = min 4294967295 (x.port.concealed + ((x.frameTaken slot).concA.toNat + (x.frameTaken slot).concB.toNat)) ∧
    (x.afterSlot slot).port.goodA = (if (x.frameTaken slot).concA = true then x.port.goodA else (x.frameTaken slot).a) ∧
    (x.afterSlot slot).port.goodB = if x.inUse.channels = .two ∧ (x.frameTaken slot).concB = false then (x.frameTaken slot).b else x.port.goodB := by
  have arrived := x.arrive_arrived slot hk
  have taken : (x.afterSlot slot).port.counter = (x.arrive slot).port.counter + 1 ∧ (x.afterSlot slot).port.injection = (x.arrive slot).port.injection ∧
      (x.afterSlot slot).port.concealed = sat Config.count32 ((x.arrive slot).port.concealed + ((x.frameTaken slot).concA.toNat + (x.frameTaken slot).concB.toNat)) ∧
      (x.afterSlot slot).port.goodA = (if (x.frameTaken slot).concA then (x.arrive slot).port.goodA else (x.frameTaken slot).a) ∧
      (x.afterSlot slot).port.goodB = match x.inUse.channels with
        | .one => (x.arrive slot).port.goodB
        | .two => if (x.frameTaken slot).concB then (x.arrive slot).port.goodB else (x.frameTaken slot).b := by
    unfold Lane.afterSlot
    dsimp only
    split <;> exact ⟨rfl, rfl, rfl, rfl, rfl⟩
  obtain ⟨counter, injection, concealed, goodA, goodB⟩ := taken
  refine ⟨counter.trans (by rw [arrived.counter]), injection.trans arrived.inj, concealed.trans (by rw [arrived.concealed, sat_eq]; rfl),
    goodA.trans (by rw [arrived.ga]), goodB.trans ?_⟩
  rw [arrived.gb]
  cases x.inUse.channels <;> cases (x.frameTaken slot).concB <;> simp

/-- The window of a port that has taken a slot: it goes on, or begins anew where the values in use have changed (R85, R89). -/
theorem Lane.afterSlot_window : ((x.arrive slot).rateChange = false → (x.afterSlot slot).port.lock = .locked ∧
      (x.afterSlot slot).port.measured = x.port.measured ∧ (x.afterSlot slot).port.windowLimit = x.port.windowLimit ∧
      (x.afterSlot slot).port.windowConcealed = x.port.windowConcealed + ((x.frameTaken slot).concA.toNat + (x.frameTaken slot).concB.toNat)) ∧
    ((x.arrive slot).rateChange = true → (x.afterSlot slot).port.lock = .measuring ∧ (x.afterSlot slot).port.measured = 0 ∧
      (x.afterSlot slot).port.windowLimit = x.profile.quality ∧ (x.afterSlot slot).port.windowConcealed = 0) := by
  have arrived := x.arrive_arrived slot hk
  unfold Lane.afterSlot
  refine ⟨fun h => ?_, fun h => ?_⟩
  · rw [h]
    exact ⟨arrived.lock, arrived.measured, arrived.wl, congrArg (· + _) arrived.wc⟩
  · rw [h]
    exact ⟨rfl, rfl, rfl, rfl⟩

theorem Lane.afterSlot_hears : x.port.Hears (x.afterSlot slot).port slot ((x.frameTaken slot).concA || failsParity slot.b) := by
  rw [Lane.frameTaken_concA hk]
  have heard : (x.afterSlot slot).port.assembly = (x.arrive slot).port.assembly ∧ (x.afterSlot slot).port.rejected = (x.arrive slot).port.rejected ∧
      (x.afterSlot slot).port.declared = (x.arrive slot).port.declared ∧ (x.afterSlot slot).port.motion = (x.arrive slot).port.motion := by
    unfold Lane.afterSlot
    dsimp only
    split <;> exact ⟨rfl, rfl, rfl, rfl⟩
  obtain ⟨assembly, rejected, declared, motion⟩ := heard
  exact LanePort.hears_arrive x slot hk _ assembly rejected declared motion

theorem Lane.rateChange_iff : (x.arrive slot).rateChange = true ↔
    ((x.afterSlot slot).inUse.rate ≠ x.inUse.rate ∨ (x.afterSlot slot).inUse.channels ≠ x.inUse.channels) := by
  rw [Lane.inUse_afterSlot]
  exact (x.arrive_arrived slot hk).change

theorem Lane.passesQuality_iff : x.passesQuality slot = true ↔ x.port.windowConcealed ≤ x.port.windowLimit ∧
    x.port.windowLimit < x.port.windowConcealed + ((x.frameTaken slot).concA.toNat + (x.frameTaken slot).concB.toNat) := by
  have arrived := x.arrive_arrived slot hk
  rw [← arrived.wc, ← arrived.wl, Lane.passesQuality, Bool.and_eq_true, decide_eq_true_eq, decide_eq_true_eq]
  rfl

end

/-- The port after a slot is the one after its frame, whatever the cutting engine does with it (R84). -/
theorem State.slotArrives_port (s : State) (l : LaneId) (slot : Slot) (hk : (s.lane l).port.lock = .locked) :
    ((s.slotArrives l slot).lane l).port = ((s.lane l).afterSlot slot).port := by
  unfold State.slotArrives
  simp only [((s.lane l).arrive_arrived slot hk).taken, if_true]
  obtain ⟨q, i, e, b, h⟩ := State.openBefore_engineAlone (s.lane l).queue.length s l slot
  obtain ⟨q', i', e', b', h'⟩ := State.engineFrame_engineAlone ((State.openBefore (s.lane l).queue.length s l slot).takeSlot l slot) l ((s.lane l).reportOf slot)
  rw [h', State.takeSlot_eq _ l slot (by rw [h]; exact hk), State.lane_setLane, h]
  rfl

end Sys2Proof.Machine

namespace Sys2Proof.Proofs
open Sys2Proof.Machine

/-- Settles O21: the countdown is loaded, and the frame that ends it has its A sample concealed. -/
theorem injection : Obligations.Injection := by
  refine ⟨fun s tag ps l hr hn hl => ?_, fun s l slot ha => ?_⟩
  · intro x k
    have run : exec .inject s = .next ((Machine.inject l ps s.takeCommand).reply ⟨tag, 0x25, ps⟩) :=
      (command_counted_of_ready hr hn (onLane Machine.inject)).trans (by rw [onLane_of_field hl])
    refine ⟨fun h1 h2 => ?_, fun h => ?_⟩
    · have accepted : Machine.inject l ps s.takeCommand = accept _ _ := if_pos ⟨h1, h2⟩
      rw [run, accepted]
      rfl
    · have refused : Machine.inject l ps s.takeCommand = refuse s.takeCommand .badParam := if_neg (by omega)
      rw [run, refused, reply_refuse]
  · intro x
    have run : exec (.injectionCountdownEnd l slot) s = .next (if x.port.lock = .locked ∧ x.port.injection = 1 then s.slotArrives l slot else s) :=
      running_of_awake ha fun s => if (s.lane l).port.lock = .locked ∧ (s.lane l).port.injection = 1 then s.slotArrives l slot else s
    refine ⟨fun hk h1 => ?_, fun h => ?_⟩
    · obtain ⟨counter, injection, concealed, goodA, -⟩ := Lane.afterSlot_counts (slot := slot) hk
      have concA : (x.frameTaken slot).concA = true := by
        rw [Lane.frameTaken_concA hk, h1]
        simp
      have concB : (x.frameTaken slot).concB.toNat = if x.inUse.channels = .two ∧ failsParity slot.b = true then 1 else 0 := by
        by_cases two : x.inUse.channels = .two
        · rw [(Lane.frameTaken_two hk two).1]
          cases failsParity slot.b <;> simp [two]
        · rw [(Lane.frameTaken_one two).1]
          simp [two]
      refine ⟨s.slotArrives l slot, run.trans (congrArg _ (if_pos ⟨hk, h1⟩)), exec_arrivingFrame s l slot ha, ?_⟩
      rw [State.slotArrives_port s l slot hk]
      refine ⟨injection.trans (by rw [h1]), counter, goodA.trans (if_pos concA), (Lane.frameTaken_a hk).trans (if_pos concA), concA, concealed.trans ?_⟩
      rw [concA, concB, ← Nat.add_assoc]
      rfl
    · rw [run, if_neg (by tauto)]

end Sys2Proof.Proofs

namespace Sys2Proof.Machine

/-! ### A slot that is not taken -/

/-- The port that a slot finds which it does not take: an edge in NO_CLOCK has begun the first window (R81; log 17). -/
def Lane.listening (x : Lane) : LanePort := if x.port.lock = .noClock then x.port.measure x.profile else x.port

section
variable {x : Lane} {slot : Slot}

theorem Lane.listening_eq (x : Lane) : x.listening = if x.port.lock = .noClock then
    { x.port with lock := .measuring, measured := 0, windowConcealed := 0, windowLimit := x.profile.quality } else x.port := rfl

theorem Lane.listening_lock (hk : x.port.lock ≠ .locked) : x.listening.lock ≠ .locked ∧ x.listening.lock ≠ .noClock := by
  rw [Lane.listening_eq]
  split
  · exact ⟨LockState.noConfusion, LockState.noConfusion⟩
  · next h => exact ⟨hk, h⟩

/-- The status word bits of the slot at the assembly of the port. -/
def Lane.hears (x : Lane) (slot : Slot) : Assembly × Nat × Option (BitVec 64) :=
  x.listening.assembly.feed (wordAux slot.a) (wordAux slot.b) (failsParity slot.a || failsParity slot.b)

variable (hk : x.port.lock ≠ .locked) {asm : Assembly} {rejects : Nat}
include hk

theorem Lane.arrive_untaken : x.arrive slot =
    let p := { x.listening with assembly := (x.hears slot).1 }
    match (x.hears slot).2.2.map goodWord with
    | some (some (declared, motion)) =>
      { port := { p with declared := some declared, motion := motion }
        taken := false
        badA := failsParity slot.a
        badB := failsParity slot.b
        motion := if motion = p.motion then none else some (p.motion, motion)
        rateChange := x.profile.source == .auto && (declared.rate != x.inUse.rate || declared.channels != x.inUse.channels) }
    | some none => ⟨{ p with rejected := sat Config.count16 (p.rejected + (x.hears slot).2.1 + 1) }, false, failsParity slot.a, failsParity slot.b, none, false⟩
    | none => ⟨{ p with rejected := sat Config.count16 (p.rejected + (x.hears slot).2.1) }, false, failsParity slot.a, failsParity slot.b, none, false⟩ := by
  have untaken : (x.listening.lock == .locked) = false := by simpa using (Lane.listening_lock hk).1
  unfold Lane.arrive
  rw [show (if x.port.lock = .noClock then x.port.measure x.profile else x.port) = x.listening from rfl]
  simp only [untaken, Bool.false_and, Bool.or_false]
  rfl

theorem Lane.arrive_silent (h : x.hears slot = (asm, rejects, none)) : x.arrive slot =
    ⟨{ x.listening with assembly := asm, rejected := min 65535 (x.listening.rejected + rejects) }, false, failsParity slot.a, failsParity slot.b, none, false⟩ := by
  rw [Lane.arrive_untaken hk, h]
  simp only [Option.map_none, sat_eq]
  rfl

theorem Lane.arrive_badWord {w : BitVec 64} (h : x.hears slot = (asm, rejects, some w)) (hw : goodWord w = none) : x.arrive slot =
    ⟨{ x.listening with assembly := asm, rejected := min 65535 (x.listening.rejected + rejects + 1) }, false, failsParity slot.a, failsParity slot.b, none, false⟩ := by
  rw [Lane.arrive_untaken hk, h]
  simp only [Option.map_some, hw, sat_eq]
  rfl

theorem Lane.arrive_goodWord {w : BitVec 64} (h : x.hears slot = (asm, rejects, some w)) {d : Declared} {m : Motion} (hw : goodWord w = some (d, m)) :
    (x.arrive slot).port = { x.listening with assembly := asm, declared := some d, motion := m } ∧ (x.arrive slot).taken = false ∧
      (x.arrive slot).rateChange = (x.profile.source == .auto && (d.rate != x.inUse.rate || d.channels != x.inUse.channels)) := by
  rw [Lane.arrive_untaken hk, h]
  simp only [Option.map_some, hw]
  exact ⟨trivial, trivial, trivial⟩

end

section
variable {s : State} {l : LaneId} {slot : Slot}

theorem State.slotArrives_untaken (ht : ((s.lane l).arrive slot).taken = false) (hr : ((s.lane l).arrive slot).rateChange = false) :
    s.slotArrives l slot = s.setLane l { s.lane l with port := ((s.lane l).arrive slot).port } := by
  unfold State.slotArrives
  simp only [ht, hr]
  rfl

/-- A word that changes what is in use restarts measurement and closes the lane's open item (R45, R89). -/
theorem State.slotArrives_changed (ht : ((s.lane l).arrive slot).taken = false) (hr : ((s.lane l).arrive slot).rateChange = true)
    (hl : ((s.lane l).arrive slot).port.lock ≠ .locked) (hc : ((s.lane l).arrive slot).port.lock ≠ .noClock) :
    s.slotArrives l slot = (s.setLane l ({ s.lane l with port := ((s.lane l).arrive slot).port } : Lane).remeasured).closeItem l .rateChange := by
  have lane : (s.setLane l { s.lane l with port := ((s.lane l).arrive slot).port }).lane l = { s.lane l with port := ((s.lane l).arrive slot).port } :=
    State.lane_setLane ..
  unfold State.slotArrives
  simp only [ht, hr, if_true, Bool.false_eq_true, if_false]
  rw [State.restartMeasurement_seeking (by rw [lane]; exact hc) (by rw [lane]; exact hl), lane, State.setLane_setLane]

end

theorem State.closeItem_of_empty {s : State} {l : LaneId} (h : (s.lane l).item = none) (reason : CloseReason) : s.closeItem l reason = s := by
  rw [State.closeItem, h]

/-! ### What the assembly makes of a slot -/

section
variable {x : Lane} {slot : Slot} {n : Nat} {word : BitVec 64} {spoiled : Bool}

theorem auxBit_eq (w : BitVec 26) : (BitVec.ofBool (wordAux w)).setWidth 64 = (if w.getLsbD 1 then 1 else 0 : BitVec 64) := by
  rw [wordAux]
  cases w.getLsbD 1 <;> decide

theorem Lane.hears_waiting (h : x.listening.assembly = .waiting) : x.hears slot =
    (if slot.b.getLsbD 1 then .collecting 1 (if slot.a.getLsbD 1 then 1 else 0) (failsParity slot.a || failsParity slot.b) else .waiting, 0, none) := by
  rw [Lane.hears, h, Assembly.feed, auxBit_eq]
  rfl

theorem Lane.hears_collecting (h : x.listening.assembly = .collecting n word spoiled) : x.hears slot =
    if slot.b.getLsbD 1 then (.collecting 1 (if slot.a.getLsbD 1 then 1 else 0) (failsParity slot.a || failsParity slot.b), 1, none)
    else if n + 1 < 64 then (.collecting (n + 1) ((word <<< 1) ||| if slot.a.getLsbD 1 then 1 else 0)
      (spoiled || (failsParity slot.a || failsParity slot.b)), 0, none)
    else if spoiled || (failsParity slot.a || failsParity slot.b) then (.waiting, 1, none)
    else (.waiting, 0, some ((word <<< 1) ||| if slot.a.getLsbD 1 then 1 else 0)) := by
  rw [Lane.hears, h, Assembly.feed, auxBit_eq]
  rfl

end

end Sys2Proof.Machine

namespace Sys2Proof.Proofs
open Sys2Proof.Machine

/-- Settles O22, by what the assembly of the port makes of the slot. -/
theorem frameNotTaken : Obligations.FrameNotTaken := by
  intro s l slot ha hk hlaw x p bit marker fails becomes
  have hp : x.listening = p := rfl
  have run := exec_arrivingFrame s l slot ha
  have rejected : p.rejected ≤ 65535 := by
    rw [← hp, Lane.listening_eq]
    split <;> exact hlaw.2.2.1
  have stays : min 65535 (p.rejected + 0) = p.rejected := by omega
  have hears {arrival : Arrival} (h : x.arrive slot = arrival) (ht : arrival.taken = false) (hr : arrival.rateChange = false) : becomes arrival.port := by
    refine run.trans (congrArg _ ?_)
    rw [State.slotArrives_untaken (by rw [h]; exact ht) (by rw [h]; exact hr), h]
  have silent {asm : Assembly} {rejects : Nat} (h : x.hears slot = (asm, rejects, none)) :
      becomes { p with assembly := asm, rejected := min 65535 (p.rejected + rejects) } := hears (Lane.arrive_silent hk h) rfl rfl
  refine ⟨fun hw hm => ?_, fun hw hm => ?_, fun n word spoiled hc => ?_⟩
  · have := silent ((Lane.hears_waiting hw).trans (by rw [show slot.b.getLsbD 1 = false from hm]))
    rw [stays, if_neg Bool.false_ne_true, ← hw] at this
    exact this
  · have := silent ((Lane.hears_waiting hw).trans (by rw [show slot.b.getLsbD 1 = true from hm]))
    rw [stays] at this
    exact this
  · have heard := Lane.hears_collecting (slot := slot) hc
    refine ⟨fun hm => ?_, fun hm hn => ?_, fun hm hn hbad => ?_, fun hm hn hs hf d m hg => ?_⟩
    · rw [if_pos hm] at heard
      exact silent heard
    · rw [if_neg (by rw [show slot.b.getLsbD 1 = false from hm]; exact Bool.false_ne_true), if_pos (by omega)] at heard
      have := silent heard
      rw [stays] at this
      exact this
    · rw [if_neg (by rw [show slot.b.getLsbD 1 = false from hm]; exact Bool.false_ne_true), if_neg (by omega)] at heard
      by_cases hspoilt : (spoiled || (failsParity slot.a || failsParity slot.b)) = true
      · rw [if_pos hspoilt] at heard
        exact silent heard
      · rw [if_neg hspoilt] at heard
        have hg : goodWord ((word <<< 1) ||| bit) = none := by
          obtain h | h | h := hbad
          · exact absurd (by rw [h]; rfl) hspoilt
          · exact absurd (by rw [show (failsParity slot.a || failsParity slot.b) = true from h, Bool.or_true]) hspoilt
          · exact h
        exact hears (Lane.arrive_badWord hk heard hg) rfl rfl
    · have unspoilt : ¬(spoiled || (failsParity slot.a || failsParity slot.b)) = true := by
        rw [hs, show (failsParity slot.a || failsParity slot.b) = false from hf]
        exact Bool.false_ne_true
      rw [if_neg (by rw [show slot.b.getLsbD 1 = false from hm]; exact Bool.false_ne_true), if_neg (by omega), if_neg unspoilt] at heard
      obtain ⟨port, taken, change⟩ := Lane.arrive_goodWord hk heard hg
      refine ⟨fun h => ?_, fun hauto hne => ?_⟩
      · have same : (x.arrive slot).rateChange = false := by
          rw [change]
          obtain h | ⟨hrate, hchannels⟩ := h
          · rw [h]; rfl
          · rw [hrate, hchannels, bne_self_eq_false, bne_self_eq_false, Bool.or_self, Bool.and_false]
        have := hears rfl taken same
        rw [port] at this
        exact this
      · intro u
        have changed : (x.arrive slot).rateChange = true := by
          rw [change, hauto]
          simpa using hne
        have lock : (x.arrive slot).port.lock = x.listening.lock := by rw [port]
        obtain ⟨unlocked, clocked⟩ := Lane.listening_lock hk
        have arrived : s.slotArrives l slot = u.closeItem l .rateChange := by
          rw [State.slotArrives_changed taken changed (by rw [lock]; exact unlocked) (by rw [lock]; exact clocked)]
          rw [port]
          rfl
        have item : (u.lane l).item = x.item := by rw [State.lane_setLane]
        refine ⟨fun hi => run.trans (congrArg _ (arrived.trans (State.closeItem_of_empty (item.trans hi) _))), fun o ho => ?_⟩
        exact ⟨_, run.trans (congrArg _ arrived), State.closeItem_itemCloses u l .rateChange (item.trans ho)⟩

end Sys2Proof.Proofs

/-! The detector at a taken frame, the measurement of the frame rate, and the loss and return of lock (R41-R43, R81-R83, R99-R106). -/

namespace Sys2Proof.Machine

/-- A complete window at the detector, by the state that it is judged in (R101, R102). -/
theorem Detector.Takes.judged {d e : Detector} {p : Profile} {use : InUse} {f : Frame} {report : DetectorReport} (h : d.Takes e p use f report)
    {w : Window} (hw : d.window = some w) (hsize : rateHz use.rate / 100 ≤ w.frames + 1) :
    let peak := max w.peak (if use.channels = .two then max f.a.toInt.natAbs f.b.toInt.natAbs else f.a.toInt.natAbs)
    e.window = none ∧
      (d.state = .silence → w.high ≤ peak → w.ng ≤ d.runCount + 1 → e.state = .signal ∧ e.runCount = 0) ∧
      (d.state = .silence → w.high ≤ peak → d.runCount + 1 < w.ng → e.state = .silence ∧ e.runCount = d.runCount + 1) ∧
      (d.state = .silence → peak < w.high → e.state = .silence ∧ e.runCount = 0) ∧
      (d.state = .signal → peak < w.low → w.ns ≤ d.runCount + 1 → e.state = .silence ∧ e.runCount = 0) ∧
      (d.state = .signal → peak < w.low → d.runCount + 1 < w.ns → e.state = .signal ∧ e.runCount = d.runCount + 1) ∧
      (d.state = .signal → w.low ≤ peak → e.state = .signal ∧ e.runCount = 0) := by
  have window : d.window.getD ⟨p.low, p.high, p.ns, p.ng, p.clip, p.runK, f.counter, 0, 0⟩ = w := by rw [hw, Option.getD_some]
  unfold Detector.Takes at h
  rw [window] at h
  obtain ⟨-, -, -, -, -, -, complete⟩ := h
  obtain ⟨none, still, more, moves⟩ := complete hsize
  refine ⟨none, fun hs hp hn => ?_, fun hs hp hn => ?_, fun hs hp => ?_, fun hs hp hn => ?_, fun hs hp hn => ?_, fun hs hp => ?_⟩
  · simp only [hs, if_true] at moves
    obtain ⟨count, silence, -⟩ := moves hp hn
    exact ⟨(silence trivial).1, count⟩
  · simp only [hs, if_true] at more
    obtain ⟨state, count, -, -⟩ := more hp hn
    exact ⟨state, count⟩
  · simp only [hs, if_true] at still
    obtain ⟨state, count, -⟩ := still (Nat.not_le.mpr hp)
    exact ⟨state, count⟩
  · simp only [hs, reduceCtorEq, if_false] at moves
    obtain ⟨count, -, signal⟩ := moves hp hn
    exact ⟨(signal trivial).1, count⟩
  · simp only [hs, reduceCtorEq, if_false] at more
    obtain ⟨state, count, -, -⟩ := more hp hn
    exact ⟨state, count⟩
  · simp only [hs, reduceCtorEq, if_false] at still
    obtain ⟨state, count, -⟩ := still (Nat.not_lt.mpr hp)
    exact ⟨state, count⟩

theorem Lane.windowEnding_iff (x : Lane) : x.windowEnding = true ↔ ∃ w, x.detector.window = some w ∧ w.frames + 1 = rateHz x.inUse.rate / 100 := by
  unfold Lane.windowEnding windowFrames
  cases x.detector.window <;> simp

end Sys2Proof.Machine

namespace Sys2Proof.Proofs
open Sys2Proof.Machine

/-- Settles O25: the detector after the slot is the one after its frame. -/
theorem detectorWindow : Obligations.DetectorWindow := by
  intro s l slot ha x d f size
  have takes (hk : x.port.lock = .locked) : d.Takes ((s.slotArrives l slot).lane l).detector x.profile x.inUse f (x.reportOf slot).detector := by
    rw [State.slotArrives_detector s l slot hk]
    exact d.frame_takes x.profile x.inUse f
  have run : exec (.detectorWindowEnd l slot) s = .next (if x.port.lock = .locked ∧ x.windowEnding then s.slotArrives l slot else s) :=
    running_of_awake ha fun s => if (s.lane l).port.lock = .locked ∧ (s.lane l).windowEnding then s.slotArrives l slot else s
  refine ⟨fun hk => ⟨_, exec_arrivingFrame s l slot ha, takes hk⟩, fun w hk hw hsize => ?_, fun h => ?_⟩
  · have ending : x.windowEnding = true := x.windowEnding_iff.mpr ⟨w, hw, hsize⟩
    exact ⟨_, run.trans (congrArg _ (if_pos ⟨hk, ending⟩)), exec_arrivingFrame s l slot ha, (takes hk).judged hw hsize.ge⟩
  · rw [run, if_neg]
    rintro ⟨hk, ending⟩
    obtain ⟨w, hw, hsize⟩ := x.windowEnding_iff.mp ending
    obtain h | h | ⟨v, hv, hne⟩ := h
    · exact h hk
    · exact nomatch h.symm.trans hw
    · obtain rfl := Option.some.inj (hv.symm.trans hw)
      exact hne hsize

end Sys2Proof.Proofs

namespace Sys2Proof.Machine

/-! ### The measured rate -/

/-- The measured rate is 16 m rounded down with a half added (R82). -/
theorem measuredRate_eq_floor {edges span : Nat} (hspan : 1 ≤ span) :
    measuredRate edges span = min 4294967295 ⌊16 * (((edges - 1 : ℕ) : ℚ) * 24576000 / span) + 1 / 2⌋₊ := by
  have span0 : (span : ℚ) ≠ 0 := by exact_mod_cast Nat.pos_iff_ne_zero.mp hspan
  have exact : 16 * (((edges - 1 : ℕ) : ℚ) * 24576000 / span) + 1 / 2 =
      ((2 * 16 * ((edges - 1) * 24576000) + span : ℕ) : ℚ) / (2 * span : ℕ) := by
    push_cast
    field_simp
    ring
  rw [exact, Nat.floor_div_eq_div, measuredRate, sat_eq]
  rfl

theorem natAbs_sub_mul_le_iff (a b k c : ℕ) : ((a : ℤ) - (b : ℤ)).natAbs * k ≤ c ↔ |(a : ℚ) - b| * k ≤ c := by
  have cast : |(a : ℚ) - b| = (((a : ℤ) - (b : ℤ)).natAbs : ℚ) := by
    rw [Nat.cast_natAbs, Int.cast_abs, Int.cast_sub, Int.cast_natCast, Int.cast_natCast]
  rw [cast]
  exact_mod_cast Iff.rfl

/-- The tolerance test is the exact one (R82). -/
theorem rateWithin_iff {rate : Rate} {tolerance edges span : Nat} (hspan : 1 ≤ span) : rateWithin rate tolerance edges span = true ↔
    |((edges - 1 : ℕ) : ℚ) * 24576000 / span - rateHz rate| ≤ (rateHz rate : ℚ) * tolerance / 1000 := by
  have span0 : (0 : ℚ) < span := by exact_mod_cast hspan
  have counted : (((edges - 1) * 24576000 : ℕ) : ℚ) = ((edges - 1 : ℕ) : ℚ) * 24576000 := by push_cast; rfl
  have deviation : ((edges - 1 : ℕ) : ℚ) * 24576000 / span - rateHz rate = ((((edges - 1) * 24576000 : ℕ) : ℚ) - ((rateHz rate * span : ℕ) : ℚ)) / span := by
    rw [counted]
    push_cast
    field_simp
  have bound : (rateHz rate : ℚ) * tolerance * span = ((rateHz rate * tolerance * span : ℕ) : ℚ) := by push_cast; rfl
  rw [rateWithin, decide_eq_true_eq, natAbs_sub_mul_le_iff, deviation, abs_div, abs_of_pos span0, div_le_div_iff₀ span0 (by norm_num), bound]
  rfl

/-! ### The end of a measurement window -/

/-- The port at the end of a window (R81, R82). -/
def Lane.judged (x : Lane) (measured : Nat) (lock : LockState) : LanePort :=
  { x.port with lock := lock, measured := measured, windowConcealed := 0, windowLimit := x.profile.quality }

theorem Lane.judged_lock (x : Lane) (m : Nat) (k lock : LockState) :
    ({ x with port := { x.judged m k with lock := lock } } : Lane) = { x with port := x.judged m lock } := rfl

theorem State.setLane_judged_lock (s : State) (l : LaneId) (m : Nat) (k lock : LockState) :
    ((s.setLane l { s.lane l with port := (s.lane l).judged m k }).mapLane l fun x => { x with port := { x.port with lock := lock } }) =
      s.setLane l { s.lane l with port := (s.lane l).judged m lock } := by
  rw [State.mapLane, State.setLane_setLane, State.lane_setLane]
  exact congrArg (s.setLane l) ((s.lane l).judged_lock m k lock)

theorem State.raise_setLane (s : State) (l : LaneId) (x : Lane) (f : Flag) (item : Item) : (s.raise f item).setLane l x = (s.setLane l x).raise f item := rfl

section
variable {s : State} {l : LaneId} {edges span ms : Nat}

theorem State.endWindow_noClock (h : (s.lane l).port.lock = .noClock) : s.endWindow l edges span ms = s := by
  unfold State.endWindow
  dsimp only
  rw [if_pos (by simp [h])]

/-- A window that ends before any expiry of a dropout timer (R81, R82). -/
theorem State.endWindow_eq (hk : (s.lane l).port.lock ≠ .noClock) (hedges : 2 ≤ edges) (hspan : 1 ≤ span) (hs : s.expireOverdue l ms = s) :
    s.endWindow l edges span ms =
      let u := s.setLane l { s.lane l with port := (s.lane l).judged (measuredRate edges span) (s.lane l).port.lock }
      if (s.lane l).port.lock = .locked then
        if rateWithin (s.lane l).inUse.rate (s.lane l).profile.tolerance edges span then u
        else ((s.setLane l { s.lane l with port := (s.lane l).judged (measuredRate edges span) .mismatch }).raise (.lane l .lockChange)).loseLock l
      else if rateWithin (s.lane l).inUse.rate (s.lane l).profile.tolerance edges span then u.acquireLock l ms
      else s.setLane l { s.lane l with port := (s.lane l).judged (measuredRate edges span) .mismatch } := by
  unfold State.endWindow
  dsimp only
  rw [if_neg (by simp [hk]; omega), hs]
  generalize measuredRate edges span = m
  generalize rateWithin (s.lane l).inUse.rate (s.lane l).profile.tolerance edges span = within
  have measured : (s.mapLane l fun x => { x with port := ({ x.port with measured := m } : LanePort).beginWindow x.profile }) =
      s.setLane l { s.lane l with port := (s.lane l).judged m (s.lane l).port.lock } := rfl
  rw [measured, State.setLane_judged_lock]
  cases (s.lane l).port.lock <;> cases within <;> rfl

/-- A lane whose lock has been acquired (R83, R104, R110). -/
def Lane.acquired (x : Lane) (measured : Nat) : Lane :=
  { x with port := x.judged measured .locked, detector := Detector.reset, ring := [], eligible := none }

theorem State.acquireLock_eq (m : Nat) : (s.setLane l { s.lane l with port := (s.lane l).judged m (s.lane l).port.lock }).acquireLock l ms =
    ((s.setLane l ((s.lane l).acquired m)).raise (.lane l .lockChange)).regainLock l ms := by
  unfold State.acquireLock
  rw [State.mapLane, State.setLane_setLane, State.lane_setLane]
  rfl

theorem State.endWindow_passes (hedges : 2 ≤ edges) (hspan : 1 ≤ span) (hs : s.expireOverdue l ms = s) (hl : (s.lane l).port.lock = .locked)
    (hp : rateWithin (s.lane l).inUse.rate (s.lane l).profile.tolerance edges span = true) :
    s.endWindow l edges span ms = s.setLane l { s.lane l with port := (s.lane l).judged (measuredRate edges span) .locked } := by
  rw [State.endWindow_eq (by rw [hl]; exact LockState.noConfusion) hedges hspan hs]
  dsimp only
  rw [if_pos hl, if_pos hp, hl]

theorem State.endWindow_fails (hedges : 2 ≤ edges) (hspan : 1 ≤ span) (hs : s.expireOverdue l ms = s) (hl : (s.lane l).port.lock = .locked)
    (hp : rateWithin (s.lane l).inUse.rate (s.lane l).profile.tolerance edges span = false) : s.endWindow l edges span ms =
      ((s.setLane l { s.lane l with port := (s.lane l).judged (measuredRate edges span) .mismatch }).raise (.lane l .lockChange)).loseLock l := by
  rw [State.endWindow_eq (by rw [hl]; exact LockState.noConfusion) hedges hspan hs]
  dsimp only
  rw [if_pos hl, if_neg (by rw [hp]; exact Bool.false_ne_true)]

variable (hl : (s.lane l).port.lock = .measuring ∨ (s.lane l).port.lock = .mismatch)
include hl

theorem seeking_of : (s.lane l).port.lock ≠ .noClock ∧ (s.lane l).port.lock ≠ .locked := by
  obtain h | h := hl <;> rw [h] <;> exact ⟨LockState.noConfusion, LockState.noConfusion⟩

theorem State.endWindow_acquires (hedges : 2 ≤ edges) (hspan : 1 ≤ span) (hs : s.expireOverdue l ms = s)
    (hp : rateWithin (s.lane l).inUse.rate (s.lane l).profile.tolerance edges span = true) : s.endWindow l edges span ms =
      ((s.setLane l ((s.lane l).acquired (measuredRate edges span))).raise (.lane l .lockChange)).regainLock l ms := by
  rw [State.endWindow_eq (seeking_of hl).1 hedges hspan hs]
  dsimp only
  rw [if_neg (seeking_of hl).2, if_pos hp, State.acquireLock_eq]

theorem State.endWindow_misses (hedges : 2 ≤ edges) (hspan : 1 ≤ span) (hs : s.expireOverdue l ms = s)
    (hp : rateWithin (s.lane l).inUse.rate (s.lane l).profile.tolerance edges span = false) :
    s.endWindow l edges span ms = s.setLane l { s.lane l with port := (s.lane l).judged (measuredRate edges span) .mismatch } := by
  rw [State.endWindow_eq (seeking_of hl).1 hedges hspan hs]
  dsimp only
  rw [if_neg (seeking_of hl).2, if_neg (by rw [hp]; exact Bool.false_ne_true)]

omit hl

theorem State.expireOverdue_of_untimed (h : ∀ o, (s.lane l).item = some o → o.dropout = none) : s.expireOverdue l ms = s := by
  have none : (s.lane l).item.bind OpenItem.dropout = none := by
    cases ho : (s.lane l).item with
    | none => rfl
    | some o => exact h o ho
  rw [State.expireOverdue, none]

theorem State.regainLock_of_empty (h : (s.lane l).item = none) : s.regainLock l ms = s := by
  rw [State.regainLock, State.mapItem, State.mapLane, h, Option.map_none]
  have same : ({ s.lane l with item := none } : Lane) = s.lane l := by rw [← h]
  rw [same, State.setLane_lane]

end

theorem LockState.seeking {k : LockState} (h : k ≠ .noClock) (h' : k ≠ .locked) : k = .measuring ∨ k = .mismatch := by
  cases k
  · exact absurd rfl h
  · exact .inl rfl
  · exact absurd rfl h'
  · exact .inr rfl

end Sys2Proof.Machine

namespace Sys2Proof.Proofs
open Sys2Proof.Machine

/-- Settles O26, by R81's table. -/
theorem rateWindow : Obligations.RateWindow := by
  intro s l edges span ms ha x m e passes p changed ends
  have run : ends = .next (s.endWindow l edges span ms) := running_of_awake ha fun s => s.endWindow l edges span ms
  have within (hspan : 1 ≤ span) : rateWithin x.inUse.rate x.profile.tolerance edges span = true ↔ passes := rateWithin_iff hspan
  have outside (hspan : 1 ≤ span) (h : ¬passes) : rateWithin x.inUse.rate x.profile.tolerance edges span = false :=
    Bool.eq_false_iff.mpr fun hp => h ((within hspan).mp hp)
  have port (hspan : 1 ≤ span) (lock : LockState) : x.judged (measuredRate edges span) lock = { p with lock := lock } := by
    rw [Lane.judged, measuredRate_eq_floor hspan]
  refine ⟨fun hedges hspan hp hl ho => ?_, fun hk hedges hspan hi => ?_, fun hk => ?_⟩
  · have hs : s.expireOverdue l ms = s := State.expireOverdue_of_untimed ho
    have locked : ({ p with lock := .locked } : LanePort) = p := by rw [← hl]
    rw [run, State.endWindow_passes hedges hspan hs hl ((within hspan).mpr hp)]
    rw [show s.lane l = x from rfl, port hspan, locked]
  · have hs : s.expireOverdue l ms = s := State.expireOverdue_of_untimed fun o ho => absurd (hi.symm.trans ho) nofun
    refine ⟨fun hp hl => ?_, fun hp hl => ?_, fun hp hl => ?_⟩
    · rw [run, State.endWindow_fails hedges hspan hs hl (outside hspan hp), State.loseLock_empty]
      · rw [show s.lane l = x from rfl, port hspan]
      · rw [State.lane_raise, State.lane_setLane]
        exact hi
    · rw [run, State.endWindow_acquires (LockState.seeking hk hl) hedges hspan hs ((within hspan).mpr hp), State.regainLock_of_empty]
      · rw [show s.lane l = x from rfl, Lane.acquired, port hspan]
      · rw [State.lane_raise, State.lane_setLane]
        exact hi
    · rw [run, State.endWindow_misses (LockState.seeking hk hl) hedges hspan hs (outside hspan hp), show s.lane l = x from rfl, port hspan]
  · rw [run, State.endWindow_noClock hk]

end Sys2Proof.Proofs

namespace Sys2Proof.Machine

/-! ### The loss and return of lock at an open item -/

section
variable {s : State} {l : LaneId} {o : OpenItem}

theorem State.loseLock_closes (ho : (s.lane l).item = some o) (hd : o.dropout = none) (hg : (s.lane l).profile.grace = 0) :
    s.loseLock l = s.closeItem l .lockLost := by
  unfold State.loseLock
  rw [ho]
  dsimp only
  rw [if_neg (by rw [hd]; exact Bool.false_ne_true), if_pos hg]

theorem State.loseLock_starts (ho : (s.lane l).item = some o) (hd : o.dropout = none) (hg : (s.lane l).profile.grace ≠ 0) :
    s.loseLock l = s.setLane l { s.lane l with item := some { o with dropout := some ⟨(s.lane l).profile.grace, o.record.length⟩ } } := by
  unfold State.loseLock
  rw [ho]
  dsimp only
  rw [if_neg (by rw [hd]; exact Bool.false_ne_true), if_neg hg, s.mapItem_eq l _ ho]

theorem State.expireDropout_running (ho : (s.lane l).item = some o) (hd : o.dropout ≠ none) : s.expireDropout l = s.closeItem l .lockLost := by
  unfold State.expireDropout
  rw [ho]
  dsimp only
  rw [if_pos (Option.isSome_iff_ne_none.mpr hd)]

theorem State.expireDropout_of_untimed (h : ∀ o, (s.lane l).item = some o → o.dropout = none) : s.expireDropout l = s := by
  unfold State.expireDropout
  split
  case h_1 o ho => rw [if_neg (by rw [h o ho]; exact Bool.false_ne_true)]
  case h_2 => rfl

theorem State.expireOverdue_running {d : Dropout} (ho : (s.lane l).item = some o) (hd : o.dropout = some d) (ms : Nat) :
    s.expireOverdue l ms = if d.limit < ms then s.expireDropout l else s := by
  unfold State.expireOverdue
  rw [ho, Option.bind_some, hd]

theorem State.regainLock_running {d : Dropout} (ho : (s.lane l).item = some o) (hd : o.dropout = some d) (ms : Nat) :
    s.regainLock l ms = s.setLane l { s.lane l with item := some (o.relock d.offset ms) } := by
  unfold State.regainLock
  rw [s.mapItem_eq l _ ho]
  dsimp only
  rw [hd]

end

/-- A window's end reads the lane's port and profile, and the state as an overdue expiry leaves it (R81, R82; log 4). -/
theorem State.endWindow_congr {s u : State} {l : LaneId} {edges span ms : Nat} (hport : (u.lane l).port = (s.lane l).port)
    (hprofile : (u.lane l).profile = (s.lane l).profile) (hk : (s.lane l).port.lock ≠ .noClock) (hedges : 2 ≤ edges) (hspan : 1 ≤ span)
    (hexpire : s.expireOverdue l ms = u.expireOverdue l ms) : s.endWindow l edges span ms = u.endWindow l edges span ms := by
  have use : (u.lane l).inUse = (s.lane l).inUse := by rw [Lane.inUse, Lane.inUse, hport, hprofile]
  unfold State.endWindow
  dsimp only
  rw [hport, hprofile, use, hexpire, if_neg (by simp [hk]; omega), if_neg (by simp [hk]; omega)]

theorem State.awake_congr {s t : State} (hlow : t.resetLow = s.resetLow) (hcmd : t.cmd = s.cmd) (htx : t.tx = s.tx) : t.awake = s.awake := by
  unfold State.awake State.settled
  rw [hlow, hcmd, htx]

theorem State.ItemCloses.awake {s t : State} {l : LaneId} {o : OpenItem} {reason : CloseReason} (h : s.ItemCloses t l o reason)
    (ha : s.awake = true) : t.awake = true := by
  obtain ⟨-, -, -, -, -, -, ⟨htx, -, -, hlow, -⟩, hcmd, -, -⟩ := h
  rw [State.awake_congr hlow hcmd htx, ha]

theorem State.loseClock_noClock {s : State} {l : LaneId} (h : (s.lane l).port.lock = .noClock) : s.loseClock l = s := by
  unfold State.loseClock
  rw [h]

/-- The port without a frame clock (R81, R82, R87, R88). -/
def LanePort.silent (p : LanePort) : LanePort :=
  { p with lock := .noClock, measured := 0, windowConcealed := 0, assembly := .waiting, motion := .unknown }

theorem State.loseClock_locked {s : State} {l : LaneId} (h : (s.lane l).port.lock = .locked) :
    s.loseClock l = ((s.setLane l { s.lane l with port := (s.lane l).port.silent }).raise (.lane l .lockChange)).loseLock l := by
  unfold State.loseClock
  rw [h]
  rfl

theorem State.loseClock_seeking {s : State} {l : LaneId} (h : (s.lane l).port.lock = .measuring ∨ (s.lane l).port.lock = .mismatch) :
    s.loseClock l = s.setLane l { s.lane l with port := (s.lane l).port.silent } := by
  unfold State.loseClock
  obtain h | h := h <;> rw [h] <;> rfl

end Sys2Proof.Machine

namespace Sys2Proof.Proofs
open Sys2Proof.Machine

/-- Settles O27, by what the port's events bring to the cutting engine (R41 to R43). -/
theorem lockLossAndReturn : Obligations.LockLossAndReturn := by
  intro s l ha x silent judged changed lost
  have clock : exec (.clockLoss l) s = .next (s.loseClock l) := running_of_awake ha fun s => s.loseClock l
  have windowAt {u : State} (hu : u.awake = true) (n span ms : Nat) : exec (.rateWindowEnd l n span ms) u = .next (u.endWindow l n span ms) :=
    running_of_awake hu fun s => s.endWindow l n span ms
  have window := @windowAt s ha
  have expiry : exec (.dropoutExpiry l) s = .next (s.expireDropout l) := running_of_awake ha fun s => s.expireDropout l
  have loses {p : LanePort} {o : OpenItem} (ho : x.item = some o) (hd : o.dropout = none) : lost p o ((changed { x with port := p }).loseLock l) := by
    have on : (changed { x with port := p }).lane l = { x with port := p } := by rw [State.lane_raise, State.lane_setLane]
    have opened : ((changed { x with port := p }).lane l).item = some o := by rw [on]; exact ho
    refine ⟨fun hg => ?_, fun hg => ?_⟩
    · rw [State.loseLock_closes opened hd (by rw [on]; exact hg)]
      exact State.closeItem_itemCloses _ l _ opened
    · rw [State.loseLock_starts opened hd (by rw [on]; exact hg), on, State.raise_setLane, State.setLane_setLane]
  refine ⟨fun o hl ho hd => ⟨⟨_, clock, ?_⟩, fun n span ms hn hspan hp => ⟨_, window n span ms, ?_⟩⟩, fun hi hl => ?_, fun hl => ?_, fun hl => ?_,
    fun o ho hd => ⟨_, expiry, ?_⟩, fun h => ?_, fun o d n span ms ho hd hl hn hspan => ⟨fun hlate => ?_, fun hms hp => ?_, fun hms hp => ?_⟩⟩
  · rw [State.loseClock_locked hl]
    exact loses ho hd
  · rw [State.endWindow_fails hn hspan (State.expireOverdue_of_untimed fun o' ho' => by cases ho.symm.trans ho'; exact hd) hl hp]
    exact loses ho hd
  · rw [clock, State.loseClock_locked hl, State.loseLock_empty]
    · rfl
    · rw [State.lane_raise, State.lane_setLane]
      exact hi
  · rw [clock, State.loseClock_seeking hl]
    rfl
  · rw [clock, State.loseClock_noClock hl]
  · rw [State.expireDropout_running ho hd]
    exact State.closeItem_itemCloses s l _ ho
  · rw [expiry, State.expireDropout_of_untimed h]
  · have hd' : o.dropout ≠ none := by rw [hd]; nofun
    have closes : s.ItemCloses (s.expireDropout l) l o .lockLost := by
      rw [State.expireDropout_running ho hd']
      exact State.closeItem_itemCloses s l _ ho
    obtain ⟨hlane, -⟩ := id closes
    have item : ((s.expireDropout l).lane l).item = none := by rw [hlane]
    refine ⟨_, expiry, closes, ?_⟩
    rw [window, windowAt (closes.awake ha)]
    refine congrArg Host.Outcome.next (State.endWindow_congr (by rw [hlane]) (by rw [hlane]) (seeking_of hl).1 hn hspan ?_)
    rw [State.expireOverdue_running ho hd, if_pos hlate, State.expireOverdue_of_untimed fun p hp => absurd (item.symm.trans hp) nofun]
  · have hs : s.expireOverdue l ms = s := by rw [State.expireOverdue_running ho hd, if_neg (Nat.not_lt.mpr hms)]
    rw [window, State.endWindow_misses hl hn hspan hs hp]
    rfl
  · have hs : s.expireOverdue l ms = s := by rw [State.expireOverdue_running ho hd, if_neg (Nat.not_lt.mpr hms)]
    obtain ⟨r, ref, hr, raised⟩ := o.relock_eq d.offset ms
    refine ⟨r, ref, ?_, raised⟩
    rw [window, State.endWindow_acquires hl hn hspan hs hp, State.regainLock_running (o := o) (d := d) _ hd, hr, State.raise_setLane, State.setLane_setLane, State.lane_raise, State.lane_setLane]
    · rfl
    · rw [State.lane_raise, State.lane_setLane]
      exact ho

end Sys2Proof.Proofs

namespace Sys2Proof.Machine

/-! ### The cue unit -/

section
variable {s : State} {l : LaneId}

theorem State.endDebounce_idle (h : (s.lane l).cue.running = none) : s.endDebounce l = s := by
  unfold State.endDebounce
  dsimp only
  rw [if_neg (by rw [h]; exact Bool.false_ne_true)]

/-- The lane once the debounced level has taken the line's level (R90). -/
def Lane.debounced (x : Lane) : Lane := { x with cue := ⟨x.cue.low, x.cue.low, none⟩ }

theorem State.endDebounce_running (h : (s.lane l).cue.running ≠ none) : s.endDebounce l =
    if (s.lane l).cue.low = true ∧ (s.lane l).cue.level = false ∧ (s.lane l).profile.enabled = true then
      (s.setLane l (s.lane l).debounced).cueEdge l
    else s.setLane l (s.lane l).debounced := by
  unfold State.endDebounce
  dsimp only
  rw [if_pos (Option.isSome_iff_ne_none.mpr h)]
  simp only [Bool.and_eq_true, Bool.not_eq_true', and_assoc]
  rfl

/-! #### An active edge by R28's table -/

theorem State.cueEdge_off (hm : (s.lane l).profile.cueMode = .off) : s.cueEdge l = s := by
  simp only [State.cueEdge, hm]

section
variable (hm : (s.lane l).profile.cueMode = .startEnd)
include hm

theorem State.cueEdge_open {o : OpenItem} (ho : (s.lane l).item = some o) :
    s.cueEdge l = if o.queued.ends.cue = true then s.closeItem l .cue else s := by
  simp only [State.cueEdge, hm, ho]

theorem State.cueEdge_head {q : Queued} {rest : List Queued} (hi : (s.lane l).item = none) (hq : (s.lane l).queue = q :: rest) :
    s.cueEdge l = if q.startRule = .cue ∧ (s.lane l).port.lock = .locked then s.openNow l else s := by
  simp only [State.cueEdge, hm, hi, hq, Bool.and_eq_true, decide_eq_true_eq, beq_iff_eq]

theorem State.cueEdge_idle (hi : (s.lane l).item = none) (hq : (s.lane l).queue = []) : s.cueEdge l = s := by
  simp only [State.cueEdge, hm, hi, hq]

end

theorem State.cueEdge_unmarked (hm : (s.lane l).profile.cueMode = .mark) (hi : (s.lane l).item = none) : s.cueEdge l = s := by
  simp only [State.cueEdge, hm, hi]

theorem State.cueEdge_marks (hm : (s.lane l).profile.cueMode = .mark) {o : OpenItem} (ho : (s.lane l).item = some o) :
    s.cueEdge l = s.setLane l { s.lane l with item := some o.cueMark } := by
  simp only [State.cueEdge, hm, ho]
  exact s.mapItem_eq l _ ho

end

end Sys2Proof.Machine

namespace Sys2Proof.Proofs
open Sys2Proof.Machine

/-- Settles O28, by R90 and R28's table. -/
theorem cueUnit : Obligations.CueUnit := by
  intro s l ha x y ended edge
  have run : ended = .next (s.endDebounce l) := running_of_awake ha fun s => s.endDebounce l
  have on : (s.setLane l y).lane l = y := State.lane_setLane s l y
  have used (he : edge) : ended = .next ((s.setLane l y).cueEdge l) := by
    obtain ⟨hr, active⟩ := he
    rw [run, State.endDebounce_running hr, if_pos active]
    rfl
  refine ⟨fun low => ?_, fun hr => ?_, fun hr hn => ?_, fun he hm => ?_, fun he hm o ho => ?_, fun he hm hi => ⟨fun q rest hq hstart hlock => ?_, fun hno => ?_⟩,
    fun he hm => ⟨fun hi => ?_, fun o ho => ?_⟩⟩
  · rw [exec_cueLineChange ha]
    rfl
  · rw [run, State.endDebounce_idle hr]
  · rw [run, State.endDebounce_running hr, if_neg fun active => hn ⟨hr, active⟩]
    rfl
  · rw [used he, State.cueEdge_off (by rw [on]; exact hm)]
  · have hm' : ((s.setLane l y).lane l).profile.cueMode = .startEnd := by rw [on]; exact hm
    have ho' : ((s.setLane l y).lane l).item = some o := by rw [on]; exact ho
    rw [used he, State.cueEdge_open hm' ho']
    refine ⟨fun hends => ⟨_, congrArg Host.Outcome.next (if_pos hends), State.closeItem_itemCloses _ l _ ho'⟩, fun hends => ?_⟩
    rw [if_neg (by rw [hends]; exact Bool.false_ne_true)]
  · have hm' : ((s.setLane l y).lane l).profile.cueMode = .startEnd := by rw [on]; exact hm
    have hi' : ((s.setLane l y).lane l).item = none := by rw [on]; exact hi
    have hq' : ((s.setLane l y).lane l).queue = q :: rest := by rw [on]; exact hq
    have hlock' : ((s.setLane l y).lane l).port.lock = .locked := by rw [on]; exact hlock
    rw [used he, State.cueEdge_head hm' hi' hq', if_pos ⟨hstart, hlock'⟩]
    have eligible : ((s.setLane l y).lane l).eligibleFrames = x.eligibleFrames := by rw [on]; rfl
    refine ⟨_, rfl, ?_⟩
    rw [← eligible]
    exact State.openHead_starts _ l _ hq' hi'
  · have hm' : ((s.setLane l y).lane l).profile.cueMode = .startEnd := by rw [on]; exact hm
    have hi' : ((s.setLane l y).lane l).item = none := by rw [on]; exact hi
    rw [used he]
    cases hq : x.queue with
    | nil => rw [State.cueEdge_idle hm' hi' (by rw [on]; exact hq)]
    | cons q rest =>
      rw [State.cueEdge_head hm' hi' (by rw [on]; exact hq), if_neg]
      rintro ⟨hstart, hlock⟩
      rw [on] at hlock
      exact (hno q rest hq).elim (fun h => h hstart) fun h => h hlock
  · rw [used he, State.cueEdge_unmarked (by rw [on]; exact hm) (by rw [on]; exact hi)]
  · refine ⟨o.cueMark, ?_, fun hroom => ?_, fun hfull => ?_⟩
    · rw [used he, State.cueEdge_marks (by rw [on]; exact hm) (by rw [on]; exact ho), on, State.setLane_setLane]
    · obtain ⟨before, behind, split, inserted, hbefore, hbehind⟩ := insertMark_split (o.record.newMark .cue o.record.length 0 false false) o.record.marks
      refine ⟨before, behind, split, hbefore, hbehind, ?_⟩
      rw [OpenItem.cueMark, OpenItem.raiseMark_stored hroom inserted]
      rfl
    · rw [OpenItem.cueMark, OpenItem.raiseMark_dropped hfull]

end Sys2Proof.Proofs

/-! A slot that a LOCKED port takes: on a lane where nothing uses it, at an ARMED head, and at an open item (R27, R30, R34, R84). -/

namespace Sys2Proof.Machine

/-! ### The ring and the flags of a taken slot -/

theorem Lane.afterSlot_ring (x : Lane) (slot : Slot) :
    (x.afterSlot slot).ring = (x.ring ++ [x.frameTaken slot]).drop (x.ring.length + 1 - x.profile.history) := by
  have entered : (x.afterSlot slot).ring = lastN x.profile.history (x.ring ++ [x.frameTaken slot]) := rfl
  rw [entered, lastN, List.length_append, List.length_singleton]

theorem Lane.afterSlot_eligible (x : Lane) (slot : Slot) : (x.afterSlot slot).eligible = keepStart (x.afterSlot slot).ring x.eligible := rfl

theorem State.slotEvents_isSet (s : State) (l : LaneId) (slot : Slot) (g : Flag) : (s.slotEvents l slot).events.isSet g =
    (s.events.isSet g || (decide (g = .lane l .quality) && (s.lane l).passesQuality slot) ||
      (decide (g = .lane l .lockChange) && ((s.lane l).arrive slot).rateChange)) := by
  unfold State.slotEvents
  cases (s.lane l).passesQuality slot <;> cases ((s.lane l).arrive slot).rateChange <;> simp [State.isSet_raise, Bool.beq_eq_decide_eq]

theorem Monitor.deliver_eq (m : Monitor) (l : LaneId) (channels : Channels) (f : Frame) : m.deliver l channels f =
    if m.source = .lane l then { m with live := some ⟨f.a, if channels = .two then f.b else f.a⟩ } else m := by
  unfold Monitor.deliver
  cases channels <;> rfl

section
variable {s : State} {l : LaneId} {slot : Slot} (hk : (s.lane l).port.lock = .locked)
include hk

theorem State.takeSlot_lane : (s.takeSlot l slot).lane l = (s.lane l).afterSlot slot := by
  rw [State.takeSlot_eq s l slot hk, State.lane_setLane]

theorem State.takeSlot_lane_ne {k : LaneId} (h : k ≠ l) : (s.takeSlot l slot).lane k = s.lane k := by
  rw [State.takeSlot_eq s l slot hk, State.lane_setLane_ne _ _ h]
  rfl

theorem State.takeSlot_monitor (id : MonitorId) : (s.takeSlot l slot).monitor id = (s.monitor id).deliver l (s.lane l).inUse.channels ((s.lane l).frameTaken slot) := by
  rw [State.takeSlot_eq s l slot hk]
  cases id <;> rfl

theorem State.takeSlot_isSet (g : Flag) : (s.takeSlot l slot).events.isSet g = (s.slotEvents l slot).events.isSet g := by
  rw [State.takeSlot_eq s l slot hk]
  rfl

/-- A slot that is taken stands, as the ports leave it, before the heads that open before it and the engine after (R84). -/
theorem State.slotArrives_taken : s.slotArrives l slot =
    ((State.openBefore (s.lane l).queue.length s l slot).takeSlot l slot).engineFrame l ((s.lane l).reportOf slot) := by
  unfold State.slotArrives
  simp only [((s.lane l).arrive_arrived slot hk).taken, if_true]

/-- Taking the slot on the lane without its open item and its queue, put back after it, is taking it on the lane (R84). -/
theorem State.takeSlot_without (i : Option OpenItem) (q : List Queued) :
    let t := (s.setLane l { s.lane l with item := none, queue := [] }).takeSlot l slot
    t.lane l = { (s.lane l).afterSlot slot with item := none, queue := [] } ∧
      t.setLane l { t.lane l with item := i, queue := q } = (s.takeSlot l slot).setLane l { (s.lane l).afterSlot slot with item := i, queue := q } := by
  dsimp only
  rw [State.takeSlot_with s l slot hk, State.lane_setLane, State.setLane_setLane, State.takeSlot_lane hk]
  exact ⟨rfl, rfl⟩

theorem State.slotArrives_without (ha : s.awake = true) :
    exec (.arrivingFrame l slot) (s.setLane l { s.lane l with item := none, queue := [] }) =
      .next ((s.setLane l { s.lane l with item := none, queue := [] }).takeSlot l slot) := by
  rw [exec_arrivingFrame _ l slot (by exact ha), State.slotArrives_idle]
  · rw [State.lane_setLane]
    exact hk
  · rw [State.lane_setLane]
    exact .inr ⟨rfl, rfl⟩

end

/-! ### The head of an ARMED lane -/

theorem State.HeadStarts.queue {s t : State} {l : LaneId} {q : Queued} {frames : List Frame} (h : s.HeadStarts t l q frames) :
    (t.lane l).queue = (s.lane l).queue.drop 1 := by
  by_cases hr : q.ends.length = true ∧ q.target ≤ (s.lane l).prerollTime frames.length
  · obtain ⟨u, p, ⟨⟨-, hq, -⟩, -⟩, -, hlane, -⟩ := h.2 hr
    rw [hlane]
    exact hq
  · obtain ⟨⟨-, hq, -⟩, -⟩ := h.1 hr
    exact hq

theorem State.openHead_awake {s : State} {l : LaneId} (hi : (s.lane l).item = none) (first : FrameCount) (cs : List Frame) (use : InUse) :
    (s.openHead l first cs use).awake = s.awake := by
  obtain ⟨htx, -, hcmd, -, hlow, -, -⟩ := (s.path_openHead l first cs use hi).isLocal.far
  exact State.awake_congr hlow hcmd htx

/-- An IMMEDIATE head opens just before the slot, which then arrives in the state that the opening leaves (R30; log 14). -/
theorem State.slotArrives_opensBefore {s : State} {l : LaneId} {slot : Slot} {q : Queued} {rest : List Queued} (hk : (s.lane l).port.lock = .locked)
    (he : (s.lane l).profile.enabled = true) (hi : (s.lane l).item = none) (hq : (s.lane l).queue = q :: rest) (hs : q.startRule = .immediate) :
    s.slotArrives l slot =
      (s.openHead l (s.lane l).port.counter ((s.lane l).eligibleBefore slot) (s.lane l).inUse).slotArrives l slot := by
  obtain ⟨u, hu⟩ : ∃ u, u = s.openHead l (s.lane l).port.counter ((s.lane l).eligibleBefore slot) (s.lane l).inUse := ⟨_, rfl⟩
  have starts := s.openHead_starts l ((s.lane l).eligibleBefore slot) hq hi
  rw [← hu] at starts ⊢
  have queue : (u.lane l).queue = rest := by rw [starts.queue, hq, List.drop_one, List.tail_cons]
  have opens : (s.lane l).opensBefore = true := by simp [Lane.opensBefore, he, hi, hq, hs]
  obtain ⟨_, _, _, _, lane⟩ := starts.engineAlone
  have port : (u.lane l).port = (s.lane l).port := by rw [lane]
  have report : (u.lane l).reportOf slot = (s.lane l).reportOf slot := by
    rw [lane]
    rfl
  rw [State.slotArrives_taken hk, State.slotArrives_taken (by rw [port]; exact hk), queue, report, hq, List.length_cons, State.openBefore,
    if_pos opens, ← hu]

theorem State.engineFrame_head {s : State} {l : LaneId} {q : Queued} {rest : List Queued} (he : (s.lane l).profile.enabled = true)
    (hi : (s.lane l).item = none) (hq : (s.lane l).queue = q :: rest) (rep : FrameReport) :
    s.engineFrame l rep = if s.startsAfter l q rep then s.openNow l else s := by
  simp only [State.engineFrame, he, hi, hq, Bool.not_true, Bool.false_eq_true, if_false]

/-- A head that is not IMMEDIATE is looked at after the slot has been taken (R27, R30). -/
theorem State.slotArrives_head {s : State} {l : LaneId} {slot : Slot} {q : Queued} {rest : List Queued} (hk : (s.lane l).port.lock = .locked)
    (he : (s.lane l).profile.enabled = true) (hi : (s.lane l).item = none) (hq : (s.lane l).queue = q :: rest) (hs : q.startRule ≠ .immediate) :
    s.slotArrives l slot = if (s.takeSlot l slot).startsAfter l q ((s.lane l).reportOf slot) then (s.takeSlot l slot).openNow l else s.takeSlot l slot := by
  have waits : (s.lane l).opensBefore = false := by simp [Lane.opensBefore, hq, hs]
  rw [State.slotArrives_taken hk, State.openBefore_of_not _ _ _ _ waits]
  have lane := State.takeSlot_lane (slot := slot) hk
  exact State.engineFrame_head (by rw [lane]; exact he) (by rw [lane]; exact hi) (by rw [lane]; exact hq) _

theorem State.startsAfter_iff {s : State} {l : LaneId} {slot : Slot} (hk : (s.lane l).port.lock = .locked) (q : Queued) :
    (s.takeSlot l slot).startsAfter l q ((s.lane l).reportOf slot) = true ↔ ((s.lane l).afterSlot slot).port.lock = .locked ∧
      (q.startRule = .signal ∧ (s.lane l).detector.state = .silence ∧ ((s.lane l).afterSlot slot).detector.state = .signal ∨
        q.startRule = .deck ∧ (s.lane l).port.motion ≠ .play ∧ ((s.lane l).afterSlot slot).port.motion = .play) := by
  have declares : ((s.lane l).reportOf slot).detector.declared = some .signal ↔
      (s.lane l).detector.state = .silence ∧ ((s.lane l).afterSlot slot).detector.state = .signal :=
    ((s.lane l).detector.frame_declares (s.lane l).profile _ _ _).1
  have motion : ((s.lane l).afterSlot slot).port.motion = ((s.lane l).arrive slot).port.motion := by
    unfold Lane.afterSlot
    dsimp only
    split <;> rfl
  have plays : reachesPlay ((s.lane l).reportOf slot).motion = true ↔ (s.lane l).port.motion ≠ .play ∧ ((s.lane l).arrive slot).port.motion = .play :=
    ((s.lane l).arrive_arrived slot hk).toPlay
  rw [State.startsAfter, State.takeSlot_lane hk, motion]
  simp only [Bool.and_eq_true, Bool.or_eq_true, beq_iff_eq, declares, plays]

end Sys2Proof.Machine

namespace Sys2Proof.Proofs
open Sys2Proof.Machine

/-- Settles O23: the slot taken where nothing uses it, and the opening that a head makes of it. -/
theorem frameTaken : Obligations.FrameTaken := by
  refine ⟨fun s l slot ha hk idle => ?_, fun s l slot q rest ha hk he hi hq => ?_⟩
  · intro x two
    have lane : (s.takeSlot l slot).lane l = x.afterSlot slot := State.takeSlot_lane hk
    obtain ⟨counter, injection, concealed, goodA, goodB⟩ := Lane.afterSlot_counts (slot := slot) hk
    obtain ⟨stays, restarts⟩ := Lane.afterSlot_window (slot := slot) hk
    have changed : (x.arrive slot).rateChange = true ↔ _ := Lane.rateChange_iff (slot := slot) hk
    have quality : x.passesQuality slot = true ↔ _ := Lane.passesQuality_iff (slot := slot) hk
    refine ⟨s.takeSlot l slot, x.frameTaken slot, ?_, rfl, Lane.frameTaken_counter hk, Lane.frameTaken_concA hk, Lane.frameTaken_a hk,
      fun h => Lane.frameTaken_two hk h, fun h => Lane.frameTaken_one h, ?_, fun g hg hg' => ?_, fun id => ?_, fun k h => State.takeSlot_lane_ne hk h, ?_⟩
    · rw [exec_arrivingFrame s l slot ha, State.slotArrives_idle s l slot hk idle]
    · dsimp only
      rw [lane]
      refine ⟨counter, injection, concealed, goodA, goodB, Lane.afterSlot_hears hk, fun h => ?_, fun h => restarts (changed.mpr h), x.afterSlot_ring slot,
        fun h => ?_, fun v h => ?_, rfl, rfl, rfl, rfl, rfl, ?_, ?_⟩
      · exact stays (Bool.eq_false_iff.mpr fun hc => h (changed.mp hc))
      · rw [Lane.afterSlot_eligible, h, keepStart_none]
      · rw [Lane.afterSlot_eligible, h, keepStart_some]
      · rw [State.takeSlot_isSet hk, State.slotEvents_isSet, ← Bool.decide_congr quality]
        simp [x]
      · rw [State.takeSlot_isSet hk, State.slotEvents_isSet, ← Bool.decide_congr changed]
        simp [x]
    · rw [State.takeSlot_isSet hk, State.slotEvents_isSet]
      simp [hg, hg']
    · rw [State.takeSlot_monitor hk, Monitor.deliver_eq]
    · rw [State.takeSlot_eq s l slot hk]
      exact ⟨rfl, rfl, rfl, rfl, rfl, rfl⟩
  · intro x
    refine ⟨fun hs => ?_, fun hs => ?_⟩
    · intro frames
      refine ⟨_, s.openHead_starts l (x.eligibleBefore slot) hq hi, ?_⟩
      rw [exec_arrivingFrame s l slot ha, exec_arrivingFrame _ l slot ((State.openHead_awake hi ..).trans ha)]
      exact congrArg Host.Outcome.next (State.slotArrives_opensBefore hk he hi hq hs)
    · have bare : ({ x with queue := [] } : Lane) = { x with item := none, queue := [] } := by rw [← hi]
      rw [bare]
      obtain ⟨hy, hu⟩ := State.takeSlot_without (slot := slot) hk none x.queue
      refine ⟨_, State.slotArrives_without hk ha, ?_⟩
      generalize (s.setLane l { s.lane l with item := none, queue := [] }).takeSlot l slot = t₀ at hy hu ⊢
      have back : ({ x.afterSlot slot with item := none, queue := x.queue } : Lane) = x.afterSlot slot := by rw [← hi]; rfl
      have whole : (s.takeSlot l slot).setLane l (x.afterSlot slot) = s.takeSlot l slot := by
        rw [show x.afterSlot slot = (s.takeSlot l slot).lane l from (State.takeSlot_lane hk).symm, State.setLane_lane]
      have taken : t₀.setLane l { t₀.lane l with queue := x.queue } = s.takeSlot l slot := by
        rw [hy] at hu ⊢
        rw [← whole, ← back]
        exact hu
      have head := State.slotArrives_head (slot := slot) hk he hi hq hs
      have starts := State.startsAfter_iff (slot := slot) hk q
      have lane := State.takeSlot_lane (slot := slot) hk
      have port : (t₀.lane l).port = ((s.lane l).afterSlot slot).port := by rw [hy]
      have detector : (t₀.lane l).detector = ((s.lane l).afterSlot slot).detector := by rw [hy]
      have eligible : (t₀.lane l).eligibleFrames = ((s.takeSlot l slot).lane l).eligibleFrames := by
        rw [hy, lane]
        rfl
      dsimp only
      rw [taken, exec_arrivingFrame s l slot ha, head, port, detector, eligible]
      refine ⟨fun h => ?_, fun h => ⟨_, congrArg Host.Outcome.next (if_pos (starts.mpr h)), ?_⟩⟩
      · rw [if_neg (mt starts.mp h)]
      · exact State.openHead_starts _ l _ (by rw [lane]; exact hq) (by rw [lane]; exact hi)

end Sys2Proof.Proofs

namespace Sys2Proof.Machine

/-! ### A frame of the open item -/

theorem State.ItemTakes.queued {s t : State} {l : LaneId} {f : Frame} {o p : OpenItem} (h : s.ItemTakes t l f o p) : p.queued = o.queued := by
  obtain ⟨-, rest, -⟩ := h
  rw [rest]

theorem OpenItem.OverloadAccounted.keeps {o p : OpenItem} {counter : FrameCount} {report : RunReport} {run : Option OverloadRun} {inA : Bool}
    (h : o.OverloadAccounted p counter report run inA) : p.queued = o.queued ∧ p.record.length = o.record.length := by
  obtain ⟨rest, -⟩ := h
  rw [rest]
  exact ⟨rfl, rfl⟩

theorem OpenItem.SilenceAccounted.keeps {o p : OpenItem} {counter : FrameCount} {declared : Option Declaration}
    (h : o.SilenceAccounted p counter declared) : p.queued = o.queued ∧ p.record.length = o.record.length := by
  obtain ⟨m, rest, -, -, same, signal, silence⟩ := h
  have mid : m.queued = o.queued ∧ m.record.length = o.record.length := by
    rw [rest]
    exact ⟨rfl, rfl⟩
  suffices kept : p.queued = m.queued ∧ p.record.length = m.record.length from ⟨kept.1.trans mid.1, kept.2.trans mid.2⟩
  by_cases he : o.queued.ends.silence = true ∨ declared = none
  · rw [same he]
    exact ⟨rfl, rfl⟩
  · obtain ⟨off, some⟩ := not_or.mp he
    cases declared with
    | none => exact absurd rfl some
    | some d =>
      cases d with
      | signal =>
        rw [signal (Bool.eq_false_iff.mpr off) rfl]
        exact ⟨rfl, rfl⟩
      | silence start =>
        obtain ⟨grown, -⟩ := silence start (Bool.eq_false_iff.mpr off) rfl
        rw [grown]
        exact ⟨rfl, rfl⟩

theorem OpenItem.takeSpeed_eq (o : OpenItem) : o.takeSpeed = { o with pendingSpeed := none, record := o.takeSpeed.record } := by
  unfold OpenItem.takeSpeed
  split
  case h_1 => rfl
  case h_2 h => rw [← h]

theorem Recording.changeSpeed_eq {r : Recording} {g : Segment} (h : r.segments.getLast? = some g) (ratio : Ratio) :
    r.changeSpeed ratio = { r with segments :=
      if g.start = r.length then r.segments.dropLast ++ [⟨g.start, ratio, g.programme⟩] else r.segments ++ [⟨r.length, ratio, r.prog r.length⟩] } := by
  rw [Recording.changeSpeed, h]
  dsimp only
  split <;> rfl

/-- What a live frame makes of the item once it has its offset, step by step (R69, R71, R72). -/
theorem OpenItem.finishFrame_accounted (m : OpenItem) (rep : FrameReport) : ∃ a b c : OpenItem,
    m.OverloadAccounted a rep.frame.counter rep.detector.reportA rep.detector.runA true ∧
    a.OverloadAccounted b rep.frame.counter rep.detector.reportB rep.detector.runB false ∧
    b.SilenceAccounted c rep.frame.counter rep.detector.declared ∧
    m.finishFrame rep = { c with live := true, record := c.record.reckon } := by
  have first := m.overloadFrame_accounted rep.frame.counter rep.detector.reportA rep.detector.runA true
  have second := (m.overloadFrame (m.record.length - 1) rep.frame.counter rep.detector.reportA rep.detector.runA true).overloadFrame_accounted
    rep.frame.counter rep.detector.reportB rep.detector.runB false
  rw [first.keeps.2] at second
  exact ⟨_, _, _, first, second, OpenItem.silence_accounted _ rep.frame.counter rep.detector.declared, rfl⟩

/-- A frame at the cutting engine of a RECORDING lane (R34). -/
theorem State.itemFrame_takes {s : State} {l : LaneId} {o : OpenItem} (ho : (s.lane l).item = some o) (rep : FrameReport) : ∃ (u : State) (m : OpenItem),
    (s.setLane l { s.lane l with item := some o.takeSpeed }).ItemTakes u l rep.frame o.takeSpeed m ∧
    s.itemFrame l rep =
      let v := u.setLane l { u.lane l with item := some (m.finishFrame rep) }
      ((m.finishFrame rep).frameClose rep).elim v fun reason => v.closeItem l reason := by
  obtain ⟨w, hw⟩ : ∃ w, w = s.mapItem l OpenItem.takeSpeed := ⟨_, rfl⟩
  have begun : w = s.setLane l { s.lane l with item := some o.takeSpeed } := hw.trans (s.mapItem_eq l _ ho)
  obtain ⟨m, hm⟩ := w.passFrame_takes l rep.frame (o := o.takeSpeed) (by rw [begun, State.lane_setLane])
  have item : ((w.passFrame l rep.frame).lane l).item = some m := by rw [hm.lane]
  refine ⟨w.passFrame l rep.frame, m, begun ▸ hm, ?_⟩
  unfold State.itemFrame
  dsimp only
  rw [← hw, State.mapItem_eq _ l _ item, State.lane_setLane]
  dsimp only
  cases (m.finishFrame rep).frameClose rep <;> rfl

theorem State.engineFrame_item {s : State} {l : LaneId} {o : OpenItem} (he : (s.lane l).profile.enabled = true) (ho : (s.lane l).item = some o)
    (rep : FrameReport) : s.engineFrame l rep = s.itemFrame l rep := by
  simp only [State.engineFrame, he, ho, Bool.not_true, Bool.false_eq_true, if_false]

theorem State.slotArrives_item {s : State} {l : LaneId} {slot : Slot} {o : OpenItem} (hk : (s.lane l).port.lock = .locked)
    (he : (s.lane l).profile.enabled = true) (ho : (s.lane l).item = some o) :
    s.slotArrives l slot = (s.takeSlot l slot).itemFrame l ((s.lane l).reportOf slot) := by
  have closed : (s.lane l).opensBefore = false := by simp [Lane.opensBefore, ho]
  have lane := State.takeSlot_lane (slot := slot) hk
  rw [State.slotArrives_taken hk, State.openBefore_of_not _ _ _ _ closed]
  exact State.engineFrame_item (by rw [lane]; exact he) (by rw [lane]; exact ho) _

/-- The change of motion of a slot and the declaration of its frame, by the lane as the slot leaves it (R88, R102). -/
theorem Lane.reportOf_closes {x : Lane} {slot : Slot} (hk : x.port.lock = .locked) :
    (Declaration.isSilence (x.reportOf slot).detector.declared = true ↔ x.detector.state = .signal ∧ (x.afterSlot slot).detector.state = .silence) ∧
    (leavesPlay (x.reportOf slot).motion = true ↔ x.port.motion = .play ∧ (x.afterSlot slot).port.motion ≠ .play) := by
  have motion : (x.afterSlot slot).port.motion = (x.arrive slot).port.motion := by
    unfold Lane.afterSlot
    dsimp only
    split <;> rfl
  rw [motion]
  exact ⟨(x.detector.frame_declares x.profile _ _ _).2, (x.arrive_arrived slot hk).play⟩

end Sys2Proof.Machine

namespace Sys2Proof.Proofs
open Sys2Proof.Machine

/-- Settles O24, by the steps of R34 and R36's list. -/
theorem frameOfItem : Obligations.FrameOfItem := by
  intro s l slot o ha hk he ho x f report begun
  have speeded : o.takeSpeed = begun := by
    rw [o.takeSpeed_eq]
    unfold OpenItem.takeSpeed
    cases hp : o.pendingSpeed <;> simp only [begun, hp]
  refine ⟨fun ratio g hr hg => ?_, ?_⟩
  · have changed : begun.record = o.record.changeSpeed ratio := by simp only [begun, hr]
    rw [changed, Recording.changeSpeed_eq hg]
  have lane : (s.takeSlot l slot).lane l = x.afterSlot slot := State.takeSlot_lane hk
  obtain ⟨hy, hu⟩ := State.takeSlot_without (slot := slot) hk (some begun) x.queue
  have item : ((s.takeSlot l slot).lane l).item = some o := by
    rw [lane]
    exact ho
  obtain ⟨u, m, takes, frame⟩ := State.itemFrame_takes item (x.reportOf slot)
  obtain ⟨a, b, c, ha', hb, hc, finished⟩ := m.finishFrame_accounted (x.reportOf slot)
  have begins : (s.takeSlot l slot).setLane l { (s.takeSlot l slot).lane l with item := some o.takeSpeed } =
      (s.takeSlot l slot).setLane l { x.afterSlot slot with item := some begun, queue := x.queue } := by
    rw [lane, speeded]
    rfl
  rw [begins, ← hu, speeded] at takes
  refine ⟨_, u, m, a, b, c, State.slotArrives_without hk ha, takes, ha', hb, hc, ?_⟩
  intro y p v reason
  have queued : p.queued = o.queued := calc
    c.queued = b.queued := hc.keeps.1
    _ = a.queued := hb.keeps.1
    _ = m.queued := ha'.keeps.1
    _ = o.queued := takes.queued
  have closes : p.frameClose (x.reportOf slot) = reason := by
    have use : y.inUse = (x.afterSlot slot).inUse := by
      rw [show y = _ from hy]
      rfl
    have detector : y.detector = (x.afterSlot slot).detector := by rw [show y = _ from hy]
    have port : y.port = (x.afterSlot slot).port := by rw [show y = _ from hy]
    obtain ⟨silent, leaves⟩ := Lane.reportOf_closes (x := x) (slot := slot) hk
    have rate : (x.reportOf slot).rateChange = true ↔ y.inUse.rate ≠ x.inUse.rate ∨ y.inUse.channels ≠ x.inUse.channels := by
      rw [use]
      exact Lane.rateChange_iff hk
    have cap : (Config.lengthCap ≤ p.record.length || Config.count32 ≤ p.record.lost) = true ↔ 68719476735 ≤ p.record.length ∨ 4294967295 ≤ p.record.lost := by
      rw [Bool.or_eq_true, decide_eq_true_eq, decide_eq_true_eq]
      rfl
    have target : p.reachedTarget = true ↔ o.queued.ends.length = true ∧ o.queued.target ≤ p.record.programme := by
      rw [OpenItem.reachedTarget, Bool.and_eq_true, decide_eq_true_eq, queued]
    have silence : (p.queued.ends.silence && Declaration.isSilence (x.reportOf slot).detector.declared) = true ↔
        o.queued.ends.silence = true ∧ x.detector.state = .signal ∧ y.detector.state = .silence := by
      rw [Bool.and_eq_true, silent, queued, detector]
    have deck : (p.queued.ends.deck && leavesPlay (x.reportOf slot).motion) = true ↔
        o.queued.ends.deck = true ∧ x.port.motion = .play ∧ y.port.motion ≠ .play := by
      rw [Bool.and_eq_true, leaves, queued, port]
    exact if_congr rate rfl (if_congr cap rfl (if_congr target rfl (if_congr silence rfl (if_congr deck rfl rfl))))
  have run : exec (.arrivingFrame l slot) s = .next (reason.elim v fun r => v.closeItem l r) := by
    rw [exec_arrivingFrame s l slot ha, State.slotArrives_item hk he ho, frame, finished, ← closes]
    rfl
  refine ⟨fun hr => ?_, fun r hr => ⟨v.closeItem l r, ?_, State.closeItem_itemCloses v l r ?_⟩⟩
  · rw [run, hr]
    rfl
  · rw [run, hr]
    rfl
  · rw [State.lane_setLane]

end Sys2Proof.Proofs
